-- ==== Sys2Proof/Word.lean ====
section
/-! DEFINITION. The words IRX works on: bytes, 32-bit words, byte sequences and register indices (00_scope R9, R10; 10_state R21). -/

namespace Sys2Proof

/-- An unsigned integer 0..255, bit 0 the least significant (R9). -/
abbrev Byte := BitVec 8

/-- A command word (R71), or a signed 32-bit word of a product in two's complement (R10, R52; log 6). -/
abbrev Word := BitVec 32

/-- The value of a valid buffer register: a finite byte sequence, offset 0 first (R10, R21). -/
abbrev Buffer := List Byte

/-- The index of a buffer register, B0 to B15 (R21). -/
abbrev Reg := Fin 16

end Sys2Proof
end

