-- ==== Sys2Proof/Syntax.lean ====
section
/-! DEFINITION. The 23 commands of IRX, one constructor per row of spec/opcode_table.json (30_encoding R73), with the operands
that R72 assembles. What a command adds, counts or compares is a number; what it slices or stores is a bit vector. -/

namespace Sys2Proof

/-- A command with its operands (R72, R73). `ch` is w[16], the one channel bit that has an effect (R75; log 10); `tag` is the
sign-extended immediate; `imm16` of APPW is kept as its 16 bits and sign-extended by the command. -/
inductive Instr where
  | bclr (rd : Reg)
  | appb (rd : Reg) (imm8 : Byte)
  | appw (rd : Reg) (imm16 : BitVec 16)
  | optclr
  | optset (fid : BitVec 8) (v : BitVec 16)
  | optnul (fid : BitVec 8)
  | cksum (rd rs : Reg) (start len : Nat)
  | tpack (rd : Reg)
  | daikin (rd : Reg)
  | mitsu (rd : Reg)
  | dkoff (rd : Reg) (ch : BitVec 1)
  | dktog (rd : Reg) (ch : BitVec 1)
  | dkwht (rd : Reg) (ch : BitVec 1)
  | dkful (rd : Reg) (ch : BitVec 1)
  | dkwrm (rd : Reg) (ch : BitVec 1)
  | dkngt (rd : Reg) (ch : BitVec 1) (intensity : Nat)
  | dkon (rd : Reg) (ch : BitVec 1) (warmth brightness : Nat)
  | wenc1 (rd rs : Reg) (tag : Int)
  | wenc4 (rd rs : Reg) (tag : Int)
  | bundle (rd rs : Reg) (n : Nat)
  | delay (rd : Reg) (ms : BitVec 16)
  | panint (rd rs : Reg)
  | emit (rs : Reg) (topic : BitVec 16)
deriving DecidableEq, Repr

end Sys2Proof
end

