-- ==== Sys2Proof/WellFormed.lean ====
section
/-! DEFINITION. Which commands have an encoding: every number operand inside the range that 30_encoding R72 gives it. -/

namespace Sys2Proof

/-- Every number operand fits its bit field (R72; log 21). Operands held in a bit vector or a register index fit by their type. -/
def Instr.wellFormed : Instr → Bool
  | .bclr _ => true
  | .appb _ _ => true
  | .appw _ _ => true
  | .optclr => true
  | .optset _ _ => true
  | .optnul _ => true
  | .cksum _ _ start len => start < 256 && len < 256
  | .tpack _ => true
  | .daikin _ => true
  | .mitsu _ => true
  | .dkoff _ _ => true
  | .dktog _ _ => true
  | .dkwht _ _ => true
  | .dkful _ _ => true
  | .dkwrm _ _ => true
  | .dkngt _ _ intensity => intensity < 16
  | .dkon _ _ warmth brightness => warmth < 128 && brightness < 128
  | .wenc1 _ _ tag => -32768 ≤ tag && tag < 32768
  | .wenc4 _ _ tag => -32768 ≤ tag && tag < 32768
  | .bundle _ _ n => n < 32
  | .delay _ _ => true
  | .panint _ _ => true
  | .emit _ _ => true

end Sys2Proof
end

