-- ==== Sys2Proof/Decode.lean ====
section
/-! DEFINITION. The command word: its fields, the decoder, total on every 32-bit word and rejecting by name, and the encoder
(30_encoding R71 to R76). The word is a 32-bit value and has no byte order (R70). -/

namespace Sys2Proof

/-- Why a word is illegal (R74; log 23). Both reasons end with the status E_ILLEGAL. -/
inductive DecodeError where
  /-- The opcode byte is not one of the 23 values of R73. -/
  | reservedOpcode (opcode : BitVec 8)
  /-- A bit that R72 calls zero is 1; the bits that are set. -/
  | zeroBitsSet (bits : Word)
deriving DecidableEq, Repr

/-- One row of spec/opcode_table.json (R74). -/
structure OpcodeRow where
  mnemonic : String
  pattern  : Word
  mask     : Word
deriving DecidableEq, Repr

/-- The rows of spec/opcode_table.json, in its order (R74). -/
def opcodeRows : List OpcodeRow :=
  [⟨"BCLR", 0x01000000, 0xFF0FFFFF⟩, ⟨"APPB", 0x02000000, 0xFF0FFF00⟩, ⟨"APPW", 0x03000000, 0xFF0F0000⟩,
   ⟨"OPTCLR", 0x08000000, 0xFFFFFFFF⟩, ⟨"OPTSET", 0x09000000, 0xFF000000⟩, ⟨"OPTNUL", 0x0A000000, 0xFF00FFFF⟩] ++
  [⟨"CKSUM", 0x10000000, 0xFF000000⟩, ⟨"TPACK", 0x11000000, 0xFF0FFFFF⟩, ⟨"DAIKIN", 0x20000000, 0xFF0FFFFF⟩,
   ⟨"MITSU", 0x30000000, 0xFF0FFFFF⟩, ⟨"DKOFF", 0x40000000, 0xFF00FFFF⟩, ⟨"DKTOG", 0x41000000, 0xFF00FFFF⟩] ++
  [⟨"DKWHT", 0x42000000, 0xFF00FFFF⟩, ⟨"DKFUL", 0x43000000, 0xFF00FFFF⟩, ⟨"DKWRM", 0x44000000, 0xFF00FFFF⟩,
   ⟨"DKNGT", 0x45000000, 0xFF00FFF0⟩, ⟨"DKON", 0x46000000, 0xFF008080⟩, ⟨"WENC1", 0x50000000, 0xFF000000⟩] ++
  [⟨"WENC4", 0x51000000, 0xFF000000⟩, ⟨"BUNDLE", 0x52000000, 0xFF00FFE0⟩, ⟨"DELAY", 0x53000000, 0xFF0F0000⟩,
   ⟨"PANINT", 0x60000000, 0xFF00FFFF⟩, ⟨"EMIT", 0x70000000, 0xFFF00000⟩]

/-- The opcode byte, w[31:24] (R71). -/
def opcodeOf (w : Word) : BitVec 8 := w.extractLsb' 24 8

/-- The destination register, w[23:20] (R71). -/
def rdOf (w : Word) : Reg := (w.extractLsb' 20 4).toFin

/-- The source register, w[19:16] (R71). -/
def rsOf (w : Word) : Reg := (w.extractLsb' 16 4).toFin

/-- The field id of OPTSET and OPTNUL, w[23:16] (R72). -/
def fidOf (w : Word) : BitVec 8 := w.extractLsb' 16 8

/-- The channel bit of a Daiko command, w[16]; w[19:17] are ignored (R72, R75). -/
def chOf (w : Word) : BitVec 1 := w.extractLsb' 16 1

/-- The immediate, w[15:0] (R71). -/
def immOf (w : Word) : BitVec 16 := w.extractLsb' 0 16

/-- The instruction when the bits that R72 calls zero are 0, and the rejection otherwise (R74). -/
def requireZero (w zeroMask : Word) (i : Instr) : Except DecodeError Instr :=
  if w &&& zeroMask = 0#32 then .ok i else .error (.zeroBitsSet (w &&& zeroMask))

/-- The command a word stands for (R72, R73, R74). -/
def decode (w : Word) : Except DecodeError Instr :=
  match opcodeOf w with
  | 0x01#8 => requireZero w 0x000FFFFF#32 (.bclr (rdOf w))
  | 0x02#8 => requireZero w 0x000FFF00#32 (.appb (rdOf w) (w.extractLsb' 0 8))
  | 0x03#8 => requireZero w 0x000F0000#32 (.appw (rdOf w) (immOf w))
  | 0x08#8 => requireZero w 0x00FFFFFF#32 .optclr
  | 0x09#8 => requireZero w 0x00000000#32 (.optset (fidOf w) (immOf w))
  | 0x0A#8 => requireZero w 0x0000FFFF#32 (.optnul (fidOf w))
  | 0x10#8 => requireZero w 0x00000000#32 (.cksum (rdOf w) (rsOf w) (w.extractLsb' 8 8).toNat (w.extractLsb' 0 8).toNat)
  | 0x11#8 => requireZero w 0x000FFFFF#32 (.tpack (rdOf w))
  | 0x20#8 => requireZero w 0x000FFFFF#32 (.daikin (rdOf w))
  | 0x30#8 => requireZero w 0x000FFFFF#32 (.mitsu (rdOf w))
  | 0x40#8 => requireZero w 0x0000FFFF#32 (.dkoff (rdOf w) (chOf w))
  | 0x41#8 => requireZero w 0x0000FFFF#32 (.dktog (rdOf w) (chOf w))
  | 0x42#8 => requireZero w 0x0000FFFF#32 (.dkwht (rdOf w) (chOf w))
  | 0x43#8 => requireZero w 0x0000FFFF#32 (.dkful (rdOf w) (chOf w))
  | 0x44#8 => requireZero w 0x0000FFFF#32 (.dkwrm (rdOf w) (chOf w))
  | 0x45#8 => requireZero w 0x0000FFF0#32 (.dkngt (rdOf w) (chOf w) (w.extractLsb' 0 4).toNat)
  | 0x46#8 => requireZero w 0x00008080#32 (.dkon (rdOf w) (chOf w) (w.extractLsb' 8 7).toNat (w.extractLsb' 0 7).toNat)
  | 0x50#8 => requireZero w 0x00000000#32 (.wenc1 (rdOf w) (rsOf w) (immOf w).toInt)
  | 0x51#8 => requireZero w 0x00000000#32 (.wenc4 (rdOf w) (rsOf w) (immOf w).toInt)
  | 0x52#8 => requireZero w 0x0000FFE0#32 (.bundle (rdOf w) (rsOf w) (w.extractLsb' 0 5).toNat)
  | 0x53#8 => requireZero w 0x000F0000#32 (.delay (rdOf w) (immOf w))
  | 0x60#8 => requireZero w 0x0000FFFF#32 (.panint (rdOf w) (rsOf w))
  | 0x70#8 => requireZero w 0x00F00000#32 (.emit (rsOf w) (immOf w))
  | op => .error (.reservedOpcode op)

/-- A word from its opcode byte, its middle byte w[23:16] and its immediate (R71). -/
def wordOf (op mid : BitVec 8) (imm : BitVec 16) : Word := op ++ mid ++ imm

/-- The middle byte from the two register fields (R71). -/
def midRegs (rd rs : Reg) : BitVec 8 := (BitVec.ofFin rd : BitVec 4) ++ (BitVec.ofFin rs : BitVec 4)

/-- The middle byte of a Daiko command: rd, three zero bits in the ignored places, the channel bit (R72; log 10). -/
def midDaiko (rd : Reg) (ch : BitVec 1) : BitVec 8 := (BitVec.ofFin rd : BitVec 4) ++ 0#3 ++ ch

/-- The word of a command (R71 to R73); for a well-formed command it decodes back to it. -/
def encode : Instr → Word
  | .bclr rd => wordOf 0x01#8 (midRegs rd 0) 0#16
  | .appb rd imm8 => wordOf 0x02#8 (midRegs rd 0) (0#8 ++ imm8)
  | .appw rd imm16 => wordOf 0x03#8 (midRegs rd 0) imm16
  | .optclr => wordOf 0x08#8 0#8 0#16
  | .optset fid v => wordOf 0x09#8 fid v
  | .optnul fid => wordOf 0x0A#8 fid 0#16
  | .cksum rd rs start len => wordOf 0x10#8 (midRegs rd rs) (BitVec.ofNat 8 start ++ BitVec.ofNat 8 len)
  | .tpack rd => wordOf 0x11#8 (midRegs rd 0) 0#16
  | .daikin rd => wordOf 0x20#8 (midRegs rd 0) 0#16
  | .mitsu rd => wordOf 0x30#8 (midRegs rd 0) 0#16
  | .dkoff rd ch => wordOf 0x40#8 (midDaiko rd ch) 0#16
  | .dktog rd ch => wordOf 0x41#8 (midDaiko rd ch) 0#16
  | .dkwht rd ch => wordOf 0x42#8 (midDaiko rd ch) 0#16
  | .dkful rd ch => wordOf 0x43#8 (midDaiko rd ch) 0#16
  | .dkwrm rd ch => wordOf 0x44#8 (midDaiko rd ch) 0#16
  | .dkngt rd ch intensity => wordOf 0x45#8 (midDaiko rd ch) (0#12 ++ BitVec.ofNat 4 intensity)
  | .dkon rd ch warmth brightness =>
      wordOf 0x46#8 (midDaiko rd ch) (0#1 ++ BitVec.ofNat 7 warmth ++ 0#1 ++ BitVec.ofNat 7 brightness)
  | .wenc1 rd rs tag => wordOf 0x50#8 (midRegs rd rs) (BitVec.ofInt 16 tag)
  | .wenc4 rd rs tag => wordOf 0x51#8 (midRegs rd rs) (BitVec.ofInt 16 tag)
  | .bundle rd rs n => wordOf 0x52#8 (midRegs rd rs) (0#11 ++ BitVec.ofNat 5 n)
  | .delay rd ms => wordOf 0x53#8 (midRegs rd 0) ms
  | .panint rd rs => wordOf 0x60#8 (midRegs rd rs) 0#16
  | .emit rs topic => wordOf 0x70#8 (midRegs 0 rs) topic

/-- The bits of a command's word that have no effect: w[19:17] of the seven Daiko commands (R75). -/
def ignoredBits : Instr → Word
  | .dkoff _ _ | .dktog _ _ | .dkwht _ _ | .dkful _ _ | .dkwrm _ _ | .dkngt _ _ _ | .dkon _ _ _ _ => 0x000E0000#32
  | .bclr _ | .appb _ _ | .appw _ _ | .optclr | .optset _ _ | .optnul _ | .cksum _ _ _ _ | .tpack _ | .daikin _ | .mitsu _
  | .wenc1 _ _ _ | .wenc4 _ _ _ | .bundle _ _ _ | .delay _ _ | .panint _ _ | .emit _ _ => 0#32

/-- The mnemonic of a command in spec/opcode_table.json (R73). -/
def mnemonicOf : Instr → String
  | .bclr _ => "BCLR" | .appb _ _ => "APPB" | .appw _ _ => "APPW" | .optclr => "OPTCLR" | .optset _ _ => "OPTSET"
  | .optnul _ => "OPTNUL" | .cksum _ _ _ _ => "CKSUM" | .tpack _ => "TPACK" | .daikin _ => "DAIKIN" | .mitsu _ => "MITSU"
  | .dkoff _ _ => "DKOFF" | .dktog _ _ => "DKTOG" | .dkwht _ _ => "DKWHT" | .dkful _ _ => "DKFUL" | .dkwrm _ _ => "DKWRM"
  | .dkngt _ _ _ => "DKNGT" | .dkon _ _ _ _ => "DKON" | .wenc1 _ _ _ => "WENC1" | .wenc4 _ _ _ => "WENC4"
  | .bundle _ _ _ => "BUNDLE" | .delay _ _ => "DELAY" | .panint _ _ => "PANINT" | .emit _ _ => "EMIT"

/-- What the decoder reads from a word of the opcode table whose lowest `nbits` bits are those of `w` and whose other bits are 0. -/
def decodeTableWord (nbits w : Nat) : Option Instr := (decode (BitVec.ofNat 32 (w % 2 ^ nbits))).toOption

end Sys2Proof
end

