-- ==== Sys2Proof/Config.lean ====
section
/-! DEFINITION. The configuration CFG (00_scope R7): the constants the source names and does not print, fixed when the
hardware is built. The machine runs with `Config.cfg`, which has no body (log 4). The constants the source prints are in
Machine/Constants.lean. -/

namespace Sys2Proof

/-- CFG.TIMER_OFF_LOW_POS: the bit of timer byte 1 that holds the off-timer's low bit, "one of 0, 1, 2, 3, 7" (R7, R127; log 5). -/
inductive OffLowPos where
  | bit0 | bit1 | bit2 | bit3 | bit7
deriving DecidableEq, Repr, Inhabited

/-- A complete Daikin record: the default record CFG.DAIKIN_DEF and every merged record (R7, R141). The widths are those of the
fields' places in the packets (R108, R145 to R153; log 9). For a timer, `none` is `unset`. -/
structure DaikinRec where
  power           : BitVec 1
  mode            : BitVec 3
  temperatureWire : Byte
  fanSpeed        : BitVec 4
  vaneDirection   : BitVec 4
  leftRight       : BitVec 4
  silent          : BitVec 1
  powerfulMode    : BitVec 1
  intelligentOn   : BitVec 1
  onTimerSet      : BitVec 1
  offTimerSet     : BitVec 1
  onTimer         : Option (BitVec 11)
  offTimer        : Option (BitVec 8)
  fanYonder       : Byte
  padding1        : BitVec 1
  padding2        : BitVec 1
  padding3        : Byte
  padding4        : BitVec 4
  padding5        : BitVec 3
  padding6        : BitVec 3
  padding7        : BitVec 7
  b16             : Byte
  b17             : Byte
deriving DecidableEq, Repr, Inhabited

/-- A complete Mitsubishi record: the default record CFG.MITSU_DEF and every merged record (R7, R171). -/
structure MitsuRec where
  timerMode       : BitVec 2
  on              : BitVec 1
  dryIntensity    : BitVec 2
  mode            : BitVec 2
  temperatureWire : BitVec 4
  isTimerCommand  : BitVec 2
  windDirection   : BitVec 3
  windSpeed       : BitVec 3
  timerValue      : Byte
  coolFeeling     : BitVec 1
  padding1        : BitVec 3
  padding2        : BitVec 2
  padding3        : BitVec 4
  padding4        : BitVec 4
  padding5        : Byte
  padding6        : BitVec 2
  padding7        : BitVec 5
  padding8        : Byte
deriving DecidableEq, Repr, Inhabited

/-- The OPEN constants of CFG (R7). -/
structure Cfg where
  daikinP1Hdr     : Vector Byte 12
  daikinP1Rsv     : Vector Byte 6
  daikinP2Hdr     : Vector Byte 5
  daikinDef       : DaikinRec
  mitsuHdr        : Vector Byte 5
  mitsuDef        : MitsuRec
  daikoCodeOff    : Byte
  daikoCodeToggle : Byte
  daikoCodeWhite  : Byte
  daikoCodeFull   : Byte
  daikoCodeWarm   : Byte
  panFreq         : Word
  timerOffLowPos  : OffLowPos
deriving DecidableEq, Repr, Inhabited

/-- The configuration of the machine at hand: read-only, unchanged by reset, its OPEN values free (R7; log 4). -/
opaque Config.cfg : Cfg

/-- CFG_REF (R8; 95_test_vectors section 1): test values, used by tests alone; no rule depends on them. -/
def Config.ref : Cfg where
  daikinP1Hdr := #v[0xA0, 0xA1, 0xA2, 0xA3, 0xA4, 0xA5, 0xA6, 0xA7, 0xA8, 0xA9, 0xAA, 0xAB]
  daikinP1Rsv := #v[0xB0, 0xB1, 0xB2, 0xB3, 0xB4, 0xB5]
  daikinP2Hdr := #v[0xC0, 0xC1, 0xC2, 0xC3, 0xC4]
  daikinDef :=
    { power := 0, mode := 0, temperatureWire := 36, fanSpeed := 0xA, vaneDirection := 0, leftRight := 0, silent := 0,
      powerfulMode := 0, intelligentOn := 0, onTimerSet := 0, offTimerSet := 0, onTimer := none, offTimer := none,
      fanYonder := 0x0C, padding1 := 0, padding2 := 1, padding3 := 0x07, padding4 := 0x5, padding5 := 0b010,
      padding6 := 0b101, padding7 := 0x2A, b16 := 0x16, b17 := 0x17 }
  mitsuHdr := #v[0xD0, 0xD1, 0xD2, 0xD3, 0xD4]
  mitsuDef :=
    { timerMode := 0, on := 0, dryIntensity := 0, mode := 1, temperatureWire := 13, isTimerCommand := 0,
      windDirection := 0, windSpeed := 0, timerValue := 0, coolFeeling := 0, padding1 := 0b001, padding2 := 0b10,
      padding3 := 0b0011, padding4 := 0, padding5 := 0x5A, padding6 := 0b01, padding7 := 0b00110, padding8 := 0x80 }
  daikoCodeOff := 0x01
  daikoCodeToggle := 0x02
  daikoCodeWhite := 0x03
  daikoCodeFull := 0x04
  daikoCodeWarm := 0x05
  panFreq := 35
  timerOffLowPos := .bit7

end Sys2Proof
end

