-- ==== Sys2Proof/Machine/State.lean ====
section
/-! DEFINITION. The state S = (B, OPT, ERR, FLT, SINK) of 10_state R20, with the host's command port beside it (log 1), the causes
a command can end with, and the reset state (R32). Plain data throughout. CFG is not state (R20). -/

namespace Sys2Proof.Machine

/-- The causes other than OK that a command can end with (60_exceptions R260). -/
inductive Cause where
  /-- E_ILLEGAL, raised by decode. -/
  | illegal
  /-- E_UNKNOWN_ENCODING, raised by WENC1 and WENC4. -/
  | unknownEncoding
  /-- E_CMD_TOO_LONG, raised by BUNDLE. -/
  | cmdTooLong
  /-- E_UNWRITTEN, raised by a command that reads an invalid buffer register. -/
  | unwritten
  /-- E_RANGE, raised by DAIKIN, BUNDLE and CKSUM. -/
  | range
  /-- E_CAPACITY, raised by APPB, APPW, WENC1, WENC4 and PANINT. -/
  | capacity
  /-- E_OPTION, raised by OPTSET, OPTNUL, TPACK, DAIKIN and MITSU. -/
  | option
deriving DecidableEq, Repr

/-- The 24 option fields (40_buffer R108), `dk` the Daikin and `mi` the Mitsubishi ones. -/
inductive Field where
  | dkPower | dkMode | dkTemperature | dkFanSpeed | dkVaneDirection | dkLeftRight | dkSilent | dkPowerfulMode
  | dkIntelligentOn | dkOnTimerSet | dkOffTimerSet | dkOnTimer | dkOffTimer | dkFanYonder
  | miTimerMode | miOn | miDryIntensity | miMode | miTemperature | miIsTimerCommand | miWindDirection | miWindSpeed
  | miTimerValue | miCoolFeeling
deriving DecidableEq, Repr

/-- The content of one option slot (10_state R25; log 12). -/
inductive Slot where
  /-- Nothing supplied. -/
  | absent
  /-- `present(v)`, v as the host supplied it. -/
  | num (v : Nat)
  /-- `present(unset)`, for the two timers only. -/
  | unset
deriving DecidableEq, Repr

/-- The option record OPT: one slot per field, at the field's place in the table of R108. -/
abbrev OptRec := Vector Slot 24

/-- One entry of the sink log: what one EMIT handed over (10_state R28). -/
structure SinkEntry where
  topic : BitVec 16
  bytes : Buffer
deriving DecidableEq, Repr

/-- What the host can do at the command port between commands (70_reset R303): present a command word, or reset IRX. -/
inductive HostEvent where
  | command (w : Word)
  | reset
deriving DecidableEq, Repr

/-- Why the machine stops. IRX never stops: every command completes (70_reset R301) and every error is a status (R262), so there
is no constructor, and nobody raises one; safe (log 16). -/
inductive Fault
deriving DecidableEq, Repr

/-- Why an instruction has no meaning. -/
inductive Refusal where
  /-- Raised by an arm of `exec` for an instruction that is not modelled yet; safe. No arm raises it: every row is modelled. -/
  | notModelled (mnemonic : String)
deriving DecidableEq, Repr

/-- The architectural state (10_state R20), and what the host has still to do (log 1). -/
structure State where
  /-- B: `none` is an invalid register, `some b` a valid one that holds `b` (R21, R22; log 8). -/
  buf  : Vector (Option Buffer) 16
  /-- OPT (R25). -/
  opt  : OptRec
  /-- ERR: the status code of the most recent command, which is also the response to the host (R26, R265; log 11). -/
  err  : BitVec 8
  /-- FLT: a command has ended with a status other than OK since reset (R27). -/
  flt  : Bool
  /-- SINK: what IRX has handed to the transport sink, oldest first (R28). -/
  sink : List SinkEntry
  /-- The model's own field: what the host has still to do at the command port, the next event first (log 1). -/
  host : List HostEvent
deriving DecidableEq, Repr

/-- The option record with every slot absent (R25). -/
def OptRec.empty : OptRec := Vector.replicate 24 .absent

/-- After reset: every register invalid, OPT empty, ERR 0, FLT 0, SINK empty (R32, R290), and a host with nothing to do (log 1). -/
def State.reset : State where
  buf  := Vector.replicate 16 none
  opt  := OptRec.empty
  err  := 0
  flt  := false
  sink := []
  host := []

end Sys2Proof.Machine
end

