-- ==== Sys2Proof/Machine/Flags.lean ====
section
/-! DEFINITION. The status of a command: the codes of ERR (60_exceptions R260) and what a command writes to ERR and FLT (R262,
10_state R26, R27). There are no other flags (R29). -/

namespace Sys2Proof.Machine

/-- The status code of a cause (R260). -/
def causeCode : Cause → BitVec 8
  | .illegal => 1
  | .unknownEncoding => 2
  | .cmdTooLong => 3
  | .unwritten => 4
  | .range => 5
  | .capacity => 6
  | .option => 7

/-- The status code OK (R260). -/
def okCode : BitVec 8 := 0

/-- The status of a command is written to ERR; a status other than OK sets FLT, which OK leaves as it was (R26, R27, R262). -/
def setStatus (code : BitVec 8) (s : State) : State := { s with err := code, flt := s.flt || code != okCode }

end Sys2Proof.Machine
end

