-- ==== Sys2Proof/Machine/Constants.lean ====
section
/-! DEFINITION. The constants the source prints (00_scope R7, "normative"; log 13) and the machine parameter BUFCAP. -/

namespace Sys2Proof.Machine

/-- BUFCAP: the largest length of a buffer in bytes (R7, 10_state R23; log 7). -/
def bufCap : Nat := 65535

/-- HDR_MARK (46_pulse R241). -/
def hdrMark : Word := 3502
/-- HDR_SPACE (R241). -/
def hdrSpace : Word := 1700
/-- BIT_MARK (R241). -/
def bitMark : Word := 502
/-- ONE_SPACE (R241). -/
def oneSpace : Word := 1244
/-- ZERO_SPACE (R241). -/
def zeroSpace : Word := 400
/-- RAW_TAG, the enumeration value raw (R241). -/
def rawTag : Word := 240
/-- DELAY_TAG, the enumeration value delay (45_framing R219). -/
def delayTag : Byte := 239
/-- DAIKO_HDR (44_daiko R190). -/
def daikoHdr : Buffer := [0x85, 0xFB]
/-- DAIKIN_P2_B15 (42_daikin R153). -/
def daikinP2B15 : Byte := 195
/-- NIGHT_LOW_ADD (R194). -/
def nightLowAdd : Nat := 5
/-- NIGHT_HIGH_ADD (R194). -/
def nightHighAdd : Nat := 8
/-- NIGHT_SPLIT (R194). -/
def nightSplit : Nat := 7
/-- ON_WARMTH_ADD (R195). -/
def onWarmthAdd : Nat := 28
/-- ON_BRIGHT_ADD (R195). -/
def onBrightAdd : Nat := 18
/-- MITSU_TEMP_BASE (43_mitsubishi R182). -/
def mitsuTempBase : Nat := 31
/-- TIMER_UNSET_ON_HIGH (41_checksum R125). -/
def timerUnsetOnHigh : BitVec 3 := 0b110
/-- TIMER_UNSET_OFF_HIGH (R125). -/
def timerUnsetOffHigh : BitVec 7 := 0b1100000

/-- The longest sub-command of a bundle (45_framing R217). -/
def subCommandCap : Nat := 255

end Sys2Proof.Machine
end

