-- ==== Sys2Proof/Machine/Operands.lean ====
section
/-! DEFINITION. Operand forms: byte order of multi-byte quantities (00_scope R10), the tag enumeration (45_framing R211), the option
fields with their ids and ranges (40_buffer R108), and the reading of an option slot over a default (R109). -/

namespace Sys2Proof.Machine

/-! Byte order (R10, 20_memory R51) -/

/-- `le16(v) = [v[7:0], v[15:8]]` (R10). -/
def le16 (v : BitVec 16) : Buffer := [v.extractLsb' 0 8, v.extractLsb' 8 8]

/-- `le32(v)`: the four bytes of a 32-bit word, the least significant first (R10; log 6). -/
def le32 (v : Word) : Buffer := [v.extractLsb' 0 8, v.extractLsb' 8 8, v.extractLsb' 16 8, v.extractLsb' 24 8]

/-- `to_buffer(words)`: consecutive signed 32-bit little-endian words (40_buffer R103). -/
def toBuffer (words : List Word) : Buffer := words.flatMap le32

/-- The bytes of a constant byte array of CFG, in order of offset. -/
def bytesOf {n : Nat} (v : Vector Byte n) : Buffer := List.ofFn fun i : Fin n => v[i]

/-! The tag enumeration (45_framing R211) -/

/-- The twenty names of ENC (R211). -/
inductive Encoding where
  | nec | sony | rc5 | rc6 | dish | sharp | panasonic | jvc | sanyo | mitsubishi | samsung | lg | whynter | coolix | daikin
  | denon | unknown | raw | panasonicBytes | delay
deriving DecidableEq, Repr

/-- The number of a name of ENC (R211). -/
def encodingValue : Encoding → Int
  | .nec => 1 | .sony => 2 | .rc5 => 3 | .rc6 => 4 | .dish => 5 | .sharp => 6 | .panasonic => 7 | .jvc => 8 | .sanyo => 9
  | .mitsubishi => 10 | .samsung => 11 | .lg => 12 | .whynter => 13 | .coolix => 15 | .daikin => 16 | .denon => 17
  | .unknown => -1 | .raw => 240 | .panasonicBytes => 241 | .delay => 239

/-- The members of ENC (R211), delay among them since IRX is a bundling variant (log 18). -/
def encodings : List Encoding :=
  [.nec, .sony, .rc5, .rc6, .dish, .sharp, .panasonic, .jvc, .sanyo, .mitsubishi, .samsung, .lg, .whynter, .coolix, .daikin,
   .denon, .unknown, .raw, .panasonicBytes, .delay]

/-- The tag check (R212): the operand is one of the twenty values. -/
def isEncoding (tag : Int) : Bool := encodings.any fun e => encodingValue e == tag

/-! The option fields (40_buffer R108) -/

/-- Every option field, in the order of R108. -/
def fields : List Field :=
  [.dkPower, .dkMode, .dkTemperature, .dkFanSpeed, .dkVaneDirection, .dkLeftRight, .dkSilent, .dkPowerfulMode,
   .dkIntelligentOn, .dkOnTimerSet, .dkOffTimerSet, .dkOnTimer, .dkOffTimer, .dkFanYonder] ++
  [.miTimerMode, .miOn, .miDryIntensity, .miMode, .miTemperature, .miIsTimerCommand, .miWindDirection, .miWindSpeed,
   .miTimerValue, .miCoolFeeling]

/-- The `fid` of a field (R108). -/
def fieldId : Field → BitVec 8
  | .dkPower => 0x00 | .dkMode => 0x01 | .dkTemperature => 0x02 | .dkFanSpeed => 0x03 | .dkVaneDirection => 0x04
  | .dkLeftRight => 0x05 | .dkSilent => 0x06 | .dkPowerfulMode => 0x07 | .dkIntelligentOn => 0x08 | .dkOnTimerSet => 0x09
  | .dkOffTimerSet => 0x0A | .dkOnTimer => 0x0B | .dkOffTimer => 0x0C | .dkFanYonder => 0x0D
  | .miTimerMode => 0x10 | .miOn => 0x11 | .miDryIntensity => 0x12 | .miMode => 0x13 | .miTemperature => 0x14
  | .miIsTimerCommand => 0x15 | .miWindDirection => 0x16 | .miWindSpeed => 0x17 | .miTimerValue => 0x18
  | .miCoolFeeling => 0x19

/-- The field that a `fid` names; none for the reserved ids 0x0E, 0x0F and 0x1A to 0xFF (R108). -/
def fieldOfId (fid : BitVec 8) : Option Field := fields.find? fun f => fieldId f == fid

/-- The least legal value of a field (R108, R182). -/
def fieldMin : Field → Nat
  | .miTemperature => 16
  | _ => 0

/-- The greatest legal value of a field (R108). -/
def fieldMax : Field → Nat
  | .dkPower | .dkSilent | .dkPowerfulMode | .dkIntelligentOn | .dkOnTimerSet | .dkOffTimerSet => 1
  | .dkMode => 7
  | .dkTemperature => 127
  | .dkFanSpeed | .dkVaneDirection | .dkLeftRight => 15
  | .dkOnTimer => 2047
  | .dkOffTimer | .dkFanYonder => 255
  | .miOn | .miCoolFeeling => 1
  | .miTimerMode | .miDryIntensity | .miMode | .miIsTimerCommand => 3
  | .miTemperature => 31
  | .miWindDirection | .miWindSpeed => 7
  | .miTimerValue => 255

/-- Whether `present(unset)` is legal in a field: the two timers only (R108). -/
def fieldNullable : Field → Bool
  | .dkOnTimer | .dkOffTimer => true
  | _ => false

/-- The two timer fields, all that TPACK takes (R107). -/
def isTimerField : Field → Bool
  | .dkOnTimer | .dkOffTimer => true
  | _ => false

/-- The 14 `dk.*` fields, all that DAIKIN takes (R107). -/
def isDaikinField : Field → Bool
  | .dkPower | .dkMode | .dkTemperature | .dkFanSpeed | .dkVaneDirection | .dkLeftRight | .dkSilent | .dkPowerfulMode
  | .dkIntelligentOn | .dkOnTimerSet | .dkOffTimerSet | .dkOnTimer | .dkOffTimer | .dkFanYonder => true
  | _ => false

/-- The 10 `mi.*` fields, all that MITSU takes (R107). -/
def isMitsuField (f : Field) : Bool := !isDaikinField f

/-- The place of a field's slot in OPT: its place in the table of R108. -/
def fieldSlot : Field → Fin 24
  | .dkPower => 0 | .dkMode => 1 | .dkTemperature => 2 | .dkFanSpeed => 3 | .dkVaneDirection => 4 | .dkLeftRight => 5
  | .dkSilent => 6 | .dkPowerfulMode => 7 | .dkIntelligentOn => 8 | .dkOnTimerSet => 9 | .dkOffTimerSet => 10
  | .dkOnTimer => 11 | .dkOffTimer => 12 | .dkFanYonder => 13 | .miTimerMode => 14 | .miOn => 15 | .miDryIntensity => 16
  | .miMode => 17 | .miTemperature => 18 | .miIsTimerCommand => 19 | .miWindDirection => 20 | .miWindSpeed => 21
  | .miTimerValue => 22 | .miCoolFeeling => 23

/-- `OPT.f` (R11). -/
def optGet (o : OptRec) (f : Field) : Slot := o[fieldSlot f]

/-- The option record with one slot written (R105, R106). -/
def optSet (o : OptRec) (f : Field) (v : Slot) : OptRec := o.set (fieldSlot f).val v (fieldSlot f).isLt

/-- `present(OPT.f)` (R11): a number and `unset` are both present. -/
def isPresent : Slot → Bool
  | .absent => false
  | .num _ => true
  | .unset => true

/-- Whether a field for which `p` holds is present (R107). -/
def anyPresent (p : Field → Bool) (o : OptRec) : Bool := fields.any fun f => p f && isPresent (optGet o f)

/-! Reading a slot over a default (R109) -/

/-- The number of a present slot in a `w`-bit field, the default when it is absent (R109; log 12 for `unset`). -/
def slotBits {w : Nat} (dflt : BitVec w) : Slot → BitVec w
  | .num v => BitVec.ofNat w v
  | .absent => dflt
  | .unset => dflt

/-- The timer of a slot, `none` for unset: the default when the slot is absent (R109), unset when the host supplied unset (R106). -/
def slotTimer {w : Nat} (dflt : Option (BitVec w)) : Slot → Option (BitVec w)
  | .num v => some (BitVec.ofNat w v)
  | .absent => dflt
  | .unset => none

end Sys2Proof.Machine
end

