-- ==== Sys2Proof/Machine/Ops.lean ====
section
/-! DEFINITION. The named operations every command is made of: reading and writing a buffer register (00_scope R11), the options, the
sink, and the end of a command, successful or with an error (60_exceptions R262). -/

namespace Sys2Proof.Machine

/-- `x[i]`: the sequence a buffer register holds; E_UNWRITTEN when it is invalid (R11, 10_state R22). -/
def readBuf (s : State) (r : Reg) : Except Cause Buffer :=
  match s.buf[r] with
  | some b => .ok b
  | none => .error .unwritten

/-- The state with one buffer register valid and holding `v` (R22). -/
def setBuf (s : State) (r : Reg) (v : Buffer) : State := { s with buf := s.buf.set r.val (some v) r.isLt }

/-- `x[i] <- v`: makes the register valid and holding `v`; E_CAPACITY when `v` is longer than BUFCAP (R11, R22, R23). -/
def writeBuf (s : State) (r : Reg) (v : Buffer) : Except Cause State :=
  if v.length ≤ bufCap then .ok (setBuf s r v) else .error .capacity

/-- The sequences of `n` consecutive registers from index `r`, ascending; E_UNWRITTEN at the first invalid one, E_RANGE past B15
(45_framing R222). -/
def readRun (s : State) (r : Nat) : Nat → Except Cause (List Buffer)
  | 0 => .ok []
  | n + 1 =>
    if h : r < 16 then do
      let b ← readBuf s ⟨r, h⟩
      let bs ← readRun s (r + 1) n
      .ok (b :: bs)
    else .error .range

/-- The guard of a command: raise the cause when the condition holds. -/
def raiseIf (cond : Bool) (c : Cause) : Except Cause Unit := if cond then .error c else .ok ()

/-- `OPT.f <- v` (40_buffer R105, R106). -/
def setOptSlot (s : State) (f : Field) (v : Slot) : State := { s with opt := optSet s.opt f v }

/-- `OPT <- all absent` (40_buffer R104, R107). -/
def clearOpt (s : State) : State := { s with opt := OptRec.empty }

/-- `SINK <- SINK ++ [(topic, bytes)]` (45_framing R224). -/
def appendSink (s : State) (topic : BitVec 16) (bytes : Buffer) : State := { s with sink := s.sink ++ [⟨topic, bytes⟩] }

/-- Error entry (R262): `ERR <- code`, `FLT <- 1` and nothing else. There is nothing to return from (R264). -/
def takeError (c : Cause) (s : State) : State := setStatus (causeCode c) s

/-- The end of a successful command (R262): `ERR <- 0`, FLT as it was. -/
def takeOk (s : State) : State := setStatus okCode s

/-- A command ends: with the state its rule computes from `s`, or, when its rule raises a cause, with the error entry from the
state `s` before it, so that a failing command is atomic (R262, R11). -/
def respond (s : State) (result : Except Cause State) : Host.Outcome State Fault Refusal :=
  match result with
  | .ok t => .next (takeOk t)
  | .error c => .next (takeError c s)

/-- A word that is no command ends with E_ILLEGAL (30_encoding R74). -/
def illegalWord (s : State) : Host.Outcome State Fault Refusal := respond s (.error .illegal)

/-- The reset signal: the reset state (70_reset R290), the host's later events left as they are (log 2). -/
def applyReset (s : State) : State := { State.reset with host := s.host }

/-- The host's next event, and the state without it; none when the host has nothing to do (log 1). -/
def nextEvent (s : State) : Option (HostEvent × State) :=
  match s.host with
  | [] => none
  | e :: rest => some (e, { s with host := rest })

/-- The host puts a command word on the port before what it has still to do (log 1). -/
def presentWord (s : State) (w : Word) : State := { s with host := .command w :: s.host }

end Sys2Proof.Machine
end

