-- ==== Sys2Proof/Machine/BufferFamily.lean ====
section
/-! DEFINITION. The buffer and option commands BCLR, APPB, APPW, OPTCLR, OPTSET, OPTNUL (40_buffer R100 to R108). -/

namespace Sys2Proof.Machine

/-- BCLR rd (R100): `x[rd] <- []`. -/
def execBclr (rd : Reg) (s : State) : Host.Outcome State Fault Refusal :=
  respond s (writeBuf s rd [])

/-- `x[rd] <- x[rd] ++ more`: E_UNWRITTEN, then E_CAPACITY (R101, R102). -/
def appendTo (rd : Reg) (more : Buffer) (s : State) : Except Cause State := do
  let b ← readBuf s rd
  writeBuf s rd (b ++ more)

/-- APPB rd, imm8 (R101). -/
def execAppb (rd : Reg) (imm8 : Byte) (s : State) : Host.Outcome State Fault Refusal :=
  respond s (appendTo rd [imm8] s)

/-- APPW rd, imm16 (R102): the sign-extended immediate as one word. -/
def execAppw (rd : Reg) (imm16 : BitVec 16) (s : State) : Host.Outcome State Fault Refusal :=
  respond s (appendTo rd (toBuffer [imm16.signExtend 32]) s)

/-- OPTCLR (R104). -/
def execOptclr (s : State) : Host.Outcome State Fault Refusal :=
  respond s (.ok (clearOpt s))

/-- OPTSET fid, v (R105): the id in the table of R108 and the value in its range, else E_OPTION. -/
def execOptset (fid : BitVec 8) (v : BitVec 16) (s : State) : Host.Outcome State Fault Refusal :=
  respond s <|
    match fieldOfId fid with
    | none => .error .option
    | some f =>
      if v.toNat < fieldMin f || fieldMax f < v.toNat then .error .option
      else .ok (setOptSlot s f (.num v.toNat))

/-- OPTNUL fid (R106): a nullable field becomes `present(unset)`, else E_OPTION. -/
def execOptnul (fid : BitVec 8) (s : State) : Host.Outcome State Fault Refusal :=
  respond s <|
    match fieldOfId fid with
    | none => .error .option
    | some f => if fieldNullable f then .ok (setOptSlot s f .unset) else .error .option

end Sys2Proof.Machine
end

