-- ==== Sys2Proof/Machine/ChecksumTimer.lean ====
section
/-! DEFINITION. The checksum generator and the timer bit-packer, CKSUM and TPACK (41_checksum_timer R120 to R130). -/

namespace Sys2Proof.Machine

/-- `checksum(b, start, n)`: the sum of `n` bytes from offset `start`, modulo 256 (R120; log 22). -/
def checksum (b : Buffer) (start n : Nat) : Byte :=
  BitVec.ofNat 8 (((b.drop start).take n).map BitVec.toNat).sum

/-- A packet from the bytes before its checksum: the checksum of all of them comes last (R121). -/
def sealPacket (body : Buffer) : Buffer := body ++ [checksum body 0 body.length]

/-- CKSUM rd, rs, start, len (R122): E_UNWRITTEN, then E_RANGE when the byte range runs past the end. -/
def execCksum (rd rs : Reg) (start len : Nat) (s : State) : Host.Outcome State Fault Refusal :=
  respond s do
    let b ← readBuf s rs
    raiseIf (b.length < start + len) .range
    writeBuf s rd [checksum b start len]

/-- The bit position that CFG.TIMER_OFF_LOW_POS names (R127; log 5). -/
def offLowBit : OffLowPos → Nat
  | .bit0 => 0
  | .bit1 => 1
  | .bit2 => 2
  | .bit3 => 3
  | .bit7 => 7

/-- `on_low` (R125). -/
def onLow : Option (BitVec 11) → BitVec 8
  | some v => v.extractLsb' 0 8
  | none => 0

/-- `on_high` (R125; log 14). -/
def onHigh : Option (BitVec 11) → BitVec 3
  | some v => v.extractLsb' 8 3
  | none => timerUnsetOnHigh

/-- `off_low` (R125). -/
def offLow : Option (BitVec 8) → BitVec 1
  | some v => v.extractLsb' 0 1
  | none => 0

/-- `off_high` (R125). -/
def offHigh : Option (BitVec 8) → BitVec 7
  | some v => v.extractLsb' 1 7
  | none => timerUnsetOffHigh

/-- `timer_pack(on, off)`: the three timer bytes, `none` for unset (R124, R126 to R128; log 14). -/
def timerPack (pos : OffLowPos) (on : Option (BitVec 11)) (off : Option (BitVec 8)) : Buffer :=
  [onLow on,
   ((onHigh on).setWidth 8 <<< 4) ||| ((offLow off).setWidth 8 <<< offLowBit pos),
   (offHigh off).setWidth 8]

/-- TPACK rd (R130): the two timer options packed, absent and unset alike, OPT cleared; E_OPTION when another field is present. -/
def execTpack (rd : Reg) (s : State) : Host.Outcome State Fault Refusal :=
  respond s do
    raiseIf (anyPresent (fun f => !isTimerField f) s.opt) .option
    let on := slotTimer none (optGet s.opt .dkOnTimer)
    let off := slotTimer none (optGet s.opt .dkOffTimer)
    let t ← writeBuf s rd (timerPack Config.cfg.timerOffLowPos on off)
    .ok (clearOpt t)

end Sys2Proof.Machine
end

