-- ==== Sys2Proof/Machine/Daikin.lean ====
section
/-! DEFINITION. The Daikin A/C two-packet assembler, DAIKIN (42_daikin R140 to R156). -/

namespace Sys2Proof.Machine

/-- The wire temperature: 2*T for a present T in degrees, the default, already in wire units, when absent (R146). -/
def daikinTemperature (dflt : Byte) : Slot → Byte
  | .num t => BitVec.ofNat 8 (2 * t)
  | .absent => dflt
  | .unset => dflt

/-- The merged record: every option field from OPT when present and from the default record when absent; paddings and constants
from the default record only (R109, R141). -/
def daikinMerge (d : DaikinRec) (o : OptRec) : DaikinRec :=
  { d with
    power := slotBits d.power (optGet o .dkPower)
    mode := slotBits d.mode (optGet o .dkMode)
    temperatureWire := daikinTemperature d.temperatureWire (optGet o .dkTemperature)
    fanSpeed := slotBits d.fanSpeed (optGet o .dkFanSpeed)
    vaneDirection := slotBits d.vaneDirection (optGet o .dkVaneDirection)
    leftRight := slotBits d.leftRight (optGet o .dkLeftRight)
    silent := slotBits d.silent (optGet o .dkSilent)
    powerfulMode := slotBits d.powerfulMode (optGet o .dkPowerfulMode)
    intelligentOn := slotBits d.intelligentOn (optGet o .dkIntelligentOn)
    onTimerSet := slotBits d.onTimerSet (optGet o .dkOnTimerSet)
    offTimerSet := slotBits d.offTimerSet (optGet o .dkOffTimerSet)
    onTimer := slotTimer d.onTimer (optGet o .dkOnTimer)
    offTimer := slotTimer d.offTimer (optGet o .dkOffTimer)
    fanYonder := slotBits d.fanYonder (optGet o .dkFanYonder) }

/-- Packet 1, 20 bytes (R143). -/
def daikinP1 (cfg : Cfg) (r : DaikinRec) : Buffer :=
  sealPacket (bytesOf cfg.daikinP1Hdr ++ [r.fanYonder] ++ bytesOf cfg.daikinP1Rsv)

/-- Byte 5 of packet 2, its fields high-to-low (R145). -/
def daikinByte5 (r : DaikinRec) : Byte :=
  r.padding1 ++ r.mode ++ r.padding2 ++ r.offTimerSet ++ r.onTimerSet ++ r.power

/-- Byte 13 of packet 2 (R151). -/
def daikinByte13 (r : DaikinRec) : Byte := r.padding5 ++ r.silent ++ r.padding6 ++ r.powerfulMode

/-- Bytes 5 to 17 of packet 2 (R145 to R153). -/
def daikinBody (cfg : Cfg) (r : DaikinRec) : Buffer :=
  [daikinByte5 r, r.temperatureWire, r.padding3, r.fanSpeed ++ r.vaneDirection, r.leftRight ++ r.padding4] ++
  timerPack cfg.timerOffLowPos r.onTimer r.offTimer ++
  [daikinByte13 r, r.intelligentOn ++ r.padding7, daikinP2B15, r.b16, r.b17]

/-- Packet 2, 19 bytes (R144, R154; 90_conflicts C1). -/
def daikinP2 (cfg : Cfg) (r : DaikinRec) : Buffer := sealPacket (bytesOf cfg.daikinP2Hdr ++ daikinBody cfg r)

/-- `daikin_encode(rec)` (R142). -/
def daikinEncode (cfg : Cfg) (r : DaikinRec) : Buffer × Buffer := (daikinP1 cfg r, daikinP2 cfg r)

/-- DAIKIN rd (R140): E_RANGE for B15, E_OPTION when a Mitsubishi field is present; else packet 1 to B[rd], packet 2 to B[rd+1],
OPT cleared. -/
def execDaikin (rd : Reg) (s : State) : Host.Outcome State Fault Refusal :=
  respond s do
    raiseIf (rd == 15) .range
    raiseIf (anyPresent isMitsuField s.opt) .option
    let packets := daikinEncode Config.cfg (daikinMerge Config.cfg.daikinDef s.opt)
    let t ← writeBuf s rd packets.1
    let u ← writeBuf t (rd + 1) packets.2
    .ok (clearOpt u)

end Sys2Proof.Machine
end

