-- ==== Sys2Proof/Machine/Daiko.lean ====
section
/-! DEFINITION. The Daiko lights assembler, DKOFF, DKTOG, DKWHT, DKFUL, DKWRM, DKNGT, DKON (44_daiko_lights R190 to R202). -/

namespace Sys2Proof.Machine

/-- The payload byte with the channel in its top bit: OR-ed in, not added (R190, R191). -/
def withChannel (ch : BitVec 1) (p : Byte) : Byte := (ch.setWidth 8 <<< 7) ||| p

/-- `pair(p)`: the byte with the channel, then 0xFF minus it (R190, R192). -/
def daikoPair (ch : BitVec 1) (p : Byte) : Buffer := [withChannel ch p, 0xFF#8 - withChannel ch p]

/-- `daiko_frame(ch, payload)`: the header, then a pair for each payload byte, in order (R190). -/
def daikoFrame (ch : BitVec 1) (payload : Buffer) : Buffer := daikoHdr ++ payload.flatMap (daikoPair ch)

/-- `night_code(i)`: two pieces with a step between 7 and 8 (R194; 90_conflicts C2). -/
def nightCode (i : Nat) : Nat := if i ≤ nightSplit then i + nightLowAdd else i + nightHighAdd

/-- `x[rd] <- daiko_frame(ch, payload)`, the whole effect of every command of the family (R196 to R202). -/
def writeFrame (rd : Reg) (ch : BitVec 1) (payload : Buffer) (s : State) : Except Cause State :=
  writeBuf s rd (daikoFrame ch payload)

/-- DKOFF rd, ch (R193, R196). -/
def execDkoff (rd : Reg) (ch : BitVec 1) (s : State) : Host.Outcome State Fault Refusal :=
  respond s (writeFrame rd ch [Config.cfg.daikoCodeOff] s)

/-- DKTOG rd, ch (R193, R197). -/
def execDktog (rd : Reg) (ch : BitVec 1) (s : State) : Host.Outcome State Fault Refusal :=
  respond s (writeFrame rd ch [Config.cfg.daikoCodeToggle] s)

/-- DKWHT rd, ch (R193, R198). -/
def execDkwht (rd : Reg) (ch : BitVec 1) (s : State) : Host.Outcome State Fault Refusal :=
  respond s (writeFrame rd ch [Config.cfg.daikoCodeWhite] s)

/-- DKFUL rd, ch (R193, R199). -/
def execDkful (rd : Reg) (ch : BitVec 1) (s : State) : Host.Outcome State Fault Refusal :=
  respond s (writeFrame rd ch [Config.cfg.daikoCodeFull] s)

/-- DKWRM rd, ch (R193, R200). -/
def execDkwrm (rd : Reg) (ch : BitVec 1) (s : State) : Host.Outcome State Fault Refusal :=
  respond s (writeFrame rd ch [Config.cfg.daikoCodeWarm] s)

/-- DKNGT rd, ch, intensity (R201): computed for every operand value, inside and outside the documented 1 to 10. -/
def execDkngt (rd : Reg) (ch : BitVec 1) (intensity : Nat) (s : State) : Host.Outcome State Fault Refusal :=
  respond s (writeFrame rd ch [BitVec.ofNat 8 (nightCode intensity)] s)

/-- DKON rd, ch, warmth, brightness (R195, R202): warmth first. -/
def execDkon (rd : Reg) (ch : BitVec 1) (warmth brightness : Nat) (s : State) : Host.Outcome State Fault Refusal :=
  respond s (writeFrame rd ch [BitVec.ofNat 8 (warmth + onWarmthAdd), BitVec.ofNat 8 (brightness + onBrightAdd)] s)

end Sys2Proof.Machine
end

