-- ==== Sys2Proof/Machine/Framing.lean ====
section
/-! DEFINITION. The framing and bundling packet wrapper and the hand-over to the sink, WENC1, WENC4, BUNDLE, DELAY, EMIT
(45_framing R210 to R225). -/

namespace Sys2Proof.Machine

/-- `with_encoding1(tag, p) = [tag mod 256] ++ p` (R213, R215). -/
def withEncoding1 (tag : Int) (p : Buffer) : Buffer := BitVec.ofInt 8 tag :: p

/-- `with_encoding4(tag, p) = le32(tag) ++ p` (R214, R215). -/
def withEncoding4 (tag : Int) (p : Buffer) : Buffer := le32 (BitVec.ofInt 32 tag) ++ p

/-- One sub-command of a bundle: its length byte, then its bytes (R216; log 22). -/
def bundleEntry (c : Buffer) : Buffer := BitVec.ofNat 8 c.length :: c

/-- `bundle(cmds)`: the count byte, then the sub-commands in order (R216). -/
def bundle (cmds : List Buffer) : Buffer := BitVec.ofNat 8 cmds.length :: cmds.flatMap bundleEntry

/-- `delay_command(ms) = [239] ++ le16(ms)` (R219). -/
def delayCommand (ms : BitVec 16) : Buffer := delayTag :: le16 ms

/-- WENC1 rd, rs, tag (R220): E_UNWRITTEN, E_UNKNOWN_ENCODING, E_CAPACITY, in this order. -/
def execWenc1 (rd rs : Reg) (tag : Int) (s : State) : Host.Outcome State Fault Refusal :=
  respond s do
    let p ← readBuf s rs
    raiseIf (!isEncoding tag) .unknownEncoding
    writeBuf s rd (withEncoding1 tag p)

/-- WENC4 rd, rs, tag (R221): the causes of WENC1 in the same order. -/
def execWenc4 (rd rs : Reg) (tag : Int) (s : State) : Host.Outcome State Fault Refusal :=
  respond s do
    let p ← readBuf s rs
    raiseIf (!isEncoding tag) .unknownEncoding
    writeBuf s rd (withEncoding4 tag p)

/-- BUNDLE rd, rs, n (R222): E_RANGE past B15, E_UNWRITTEN, E_CMD_TOO_LONG for a sub-command over 255 bytes (R217), in this order. -/
def execBundle (rd rs : Reg) (n : Nat) (s : State) : Host.Outcome State Fault Refusal :=
  respond s do
    raiseIf (16 < rs.val + n) .range
    let cmds ← readRun s rs.val n
    raiseIf (cmds.any fun c => subCommandCap < c.length) .cmdTooLong
    writeBuf s rd (bundle cmds)

/-- DELAY rd, ms (R223): the record is made, nothing waits. -/
def execDelay (rd : Reg) (ms : BitVec 16) (s : State) : Host.Outcome State Fault Refusal :=
  respond s (writeBuf s rd (delayCommand ms))

/-- EMIT rs, topic (R224): a copy of the buffer goes to the sink, whose delivery IRX does not learn of (R28, R62). -/
def execEmit (rs : Reg) (topic : BitVec 16) (s : State) : Host.Outcome State Fault Refusal :=
  respond s do
    let b ← readBuf s rs
    .ok (appendSink s topic b)

end Sys2Proof.Machine
end

