-- ==== Sys2Proof/Machine/Mitsubishi.lean ====
section
/-! DEFINITION. The Mitsubishi GP82 A/C packet assembler, MITSU (43_mitsubishi R170 to R183). -/

namespace Sys2Proof.Machine

/-- The wire temperature: 31 - T for a present T in degrees, the default, already in wire units, when absent (R182). -/
def mitsuTemperature (dflt : BitVec 4) : Slot → BitVec 4
  | .num t => BitVec.ofNat 4 (mitsuTempBase - t)
  | .absent => dflt
  | .unset => dflt

/-- The merged record: every option field from OPT when present and from the default record when absent; paddings from the
default record only (R109, R171). -/
def mitsuMerge (d : MitsuRec) (o : OptRec) : MitsuRec :=
  { d with
    timerMode := slotBits d.timerMode (optGet o .miTimerMode)
    on := slotBits d.on (optGet o .miOn)
    dryIntensity := slotBits d.dryIntensity (optGet o .miDryIntensity)
    mode := slotBits d.mode (optGet o .miMode)
    temperatureWire := mitsuTemperature d.temperatureWire (optGet o .miTemperature)
    isTimerCommand := slotBits d.isTimerCommand (optGet o .miIsTimerCommand)
    windDirection := slotBits d.windDirection (optGet o .miWindDirection)
    windSpeed := slotBits d.windSpeed (optGet o .miWindSpeed)
    timerValue := slotBits d.timerValue (optGet o .miTimerValue)
    coolFeeling := slotBits d.coolFeeling (optGet o .miCoolFeeling) }

/-- Byte 5, its fields high-to-low (R173). -/
def mitsuByte5 (r : MitsuRec) : Byte := r.padding1 ++ r.timerMode ++ r.on ++ r.padding2

/-- Byte 6 (R174). -/
def mitsuByte6 (r : MitsuRec) : Byte := r.padding3 ++ r.dryIntensity ++ r.mode

/-- Byte 8 (R176). -/
def mitsuByte8 (r : MitsuRec) : Byte := r.isTimerCommand ++ r.windDirection ++ r.windSpeed

/-- Byte 11 (R179). -/
def mitsuByte11 (r : MitsuRec) : Byte := r.padding6 ++ r.coolFeeling ++ r.padding7

/-- `mitsu_encode(rec)`: the 14 bytes (R171 to R181). -/
def mitsuEncode (cfg : Cfg) (r : MitsuRec) : Buffer :=
  sealPacket (bytesOf cfg.mitsuHdr ++
    [mitsuByte5 r, mitsuByte6 r, r.padding4 ++ r.temperatureWire, mitsuByte8 r, r.timerValue, r.padding5, mitsuByte11 r, r.padding8])

/-- MITSU rd (R170): E_OPTION when a Daikin field is present; else the packet to B[rd], OPT cleared. -/
def execMitsu (rd : Reg) (s : State) : Host.Outcome State Fault Refusal :=
  respond s do
    raiseIf (anyPresent isDaikinField s.opt) .option
    let t ← writeBuf s rd (mitsuEncode Config.cfg (mitsuMerge Config.cfg.mitsuDef s.opt))
    .ok (clearOpt t)

end Sys2Proof.Machine
end

