-- ==== Sys2Proof/Machine/Pulse.lean ====
section
/-! DEFINITION. The pulse-timing expansion, PANINT (46_pulse_expansion R240 to R248). -/

namespace Sys2Proof.Machine

/-- The space after the mark of a bit: long for a one, short for a zero (R241, R244). -/
def bitSpace (bit : Bool) : Word := if bit then oneSpace else zeroSpace

/-- The eight (mark, space) pairs of a byte, bit 0 first (R241, R244). -/
def byteWords (b : Byte) : List Word := (List.range 8).flatMap fun j => [bitMark, bitSpace (b.getLsbD j)]

/-- `pan_words(p)`, for a carrier-frequency word `freq`: bytes in ascending offset (R241, R242, R244, R246; log 13). -/
def panWords (freq : Word) (p : Buffer) : List Word :=
  [rawTag, freq, hdrMark, hdrSpace] ++ p.flatMap byteWords ++ [bitMark]

/-- `pan_intervals(p) = to_buffer(pan_words(p))` (R243). -/
def panIntervals (freq : Word) (p : Buffer) : Buffer := toBuffer (panWords freq p)

/-- PANINT rd, rs (R248): E_UNWRITTEN, then E_CAPACITY. -/
def execPanint (rd rs : Reg) (s : State) : Host.Outcome State Fault Refusal :=
  respond s do
    let p ← readBuf s rs
    writeBuf s rd (panIntervals Config.cfg.panFreq p)

end Sys2Proof.Machine
end

