-- ==== Sys2Proof/Machine/Dispatch.lean ====
section
/-! DEFINITION. The meaning of every command, one arm per constructor of Instr. -/

namespace Sys2Proof.Machine

/-- A command executed (30_encoding R70, R73). -/
def exec (i : Instr) (s : State) : Host.Outcome State Fault Refusal :=
  match i with
  | .bclr rd => Sys2Proof.Machine.execBclr rd s
  | .appb rd imm8 => Sys2Proof.Machine.execAppb rd imm8 s
  | .appw rd imm16 => Sys2Proof.Machine.execAppw rd imm16 s
  | .optclr => Sys2Proof.Machine.execOptclr s
  | .optset fid v => Sys2Proof.Machine.execOptset fid v s
  | .optnul fid => Sys2Proof.Machine.execOptnul fid s
  | .cksum rd rs start len => Sys2Proof.Machine.execCksum rd rs start len s
  | .tpack rd => Sys2Proof.Machine.execTpack rd s
  | .daikin rd => Sys2Proof.Machine.execDaikin rd s
  | .mitsu rd => Sys2Proof.Machine.execMitsu rd s
  | .dkoff rd ch => Sys2Proof.Machine.execDkoff rd ch s
  | .dktog rd ch => Sys2Proof.Machine.execDktog rd ch s
  | .dkwht rd ch => Sys2Proof.Machine.execDkwht rd ch s
  | .dkful rd ch => Sys2Proof.Machine.execDkful rd ch s
  | .dkwrm rd ch => Sys2Proof.Machine.execDkwrm rd ch s
  | .dkngt rd ch intensity => Sys2Proof.Machine.execDkngt rd ch intensity s
  | .dkon rd ch warmth brightness => Sys2Proof.Machine.execDkon rd ch warmth brightness s
  | .wenc1 rd rs tag => Sys2Proof.Machine.execWenc1 rd rs tag s
  | .wenc4 rd rs tag => Sys2Proof.Machine.execWenc4 rd rs tag s
  | .bundle rd rs n => Sys2Proof.Machine.execBundle rd rs n s
  | .delay rd ms => Sys2Proof.Machine.execDelay rd ms s
  | .panint rd rs => Sys2Proof.Machine.execPanint rd rs s
  | .emit rs topic => Sys2Proof.Machine.execEmit rs topic s

end Sys2Proof.Machine
end

