-- ==== Sys2Proof/Machine/Step.lean ====
section
/-! DEFINITION. One step: what the host does next at the command port, executed completely (30_encoding R70, 70_reset R302, R303). -/

namespace Sys2Proof.Machine

/-- A command word executed: the command it decodes to, or the status E_ILLEGAL (R70, R74). -/
def execWord (w : Word) (s : State) : Host.Outcome State Fault Refusal :=
  match decode w with
  | .ok i => exec i s
  | .error _ => illegalWord s

/-- One step. The host's next event is taken: a command word is executed, a reset signal gives the reset state; with no event IRX
waits (R32; log 1, 2). -/
def step (s : State) : Host.Outcome State Fault Refusal :=
  match nextEvent s with
  | none => .next s
  | some (.reset, t) => .next (applyReset t)
  | some (.command w, t) => execWord w t

/-- The command word of an opcode-table row (its lowest `nbits` bits those of `w`, the others 0) put on the command port, so that
the next step executes it (log 1). -/
def State.withFetchWord (s : State) (nbits w : Nat) : State := presentWord s (BitVec.ofNat 32 (w % 2 ^ nbits))

/-- A run's start: the reset state, and a host that will present `words` in order (R302; log 1). -/
def programState (words : List Word) : State := { State.reset with host := words.map .command }

end Sys2Proof.Machine
end

