-- ==== Sys2Proof/Machine/Assembler.lean ====
section
/-! DEFINITION. The assembler syntax and the pseudo-instructions (30_encoding R77, R78): one line of text to command words. A
convention for writing programs; no command's meaning depends on it (log 20). -/

namespace Sys2Proof.Machine

/-- The assembler name of an option field (40_buffer R108). -/
def fieldName : Field → String
  | .dkPower => "dk.power" | .dkMode => "dk.mode" | .dkTemperature => "dk.temperature" | .dkFanSpeed => "dk.fan_speed"
  | .dkVaneDirection => "dk.vane_direction" | .dkLeftRight => "dk.left_right" | .dkSilent => "dk.silent"
  | .dkPowerfulMode => "dk.powerful_mode" | .dkIntelligentOn => "dk.intelligent_on" | .dkOnTimerSet => "dk.on_timer_set"
  | .dkOffTimerSet => "dk.off_timer_set" | .dkOnTimer => "dk.on_timer" | .dkOffTimer => "dk.off_timer"
  | .dkFanYonder => "dk.fan_yonder" | .miTimerMode => "mi.timer_mode" | .miOn => "mi.on"
  | .miDryIntensity => "mi.dry_intensity" | .miMode => "mi.mode" | .miTemperature => "mi.temperature"
  | .miIsTimerCommand => "mi.is_timer_command" | .miWindDirection => "mi.wind_direction" | .miWindSpeed => "mi.wind_speed"
  | .miTimerValue => "mi.timer_value" | .miCoolFeeling => "mi.cool_feeling"

/-- The name of a member of ENC (45_framing R211). -/
def encodingName : Encoding → String
  | .nec => "nec" | .sony => "sony" | .rc5 => "rc5" | .rc6 => "rc6" | .dish => "dish" | .sharp => "sharp"
  | .panasonic => "panasonic" | .jvc => "jvc" | .sanyo => "sanyo" | .mitsubishi => "mitsubishi" | .samsung => "samsung"
  | .lg => "lg" | .whynter => "whynter" | .coolix => "coolix" | .daikin => "daikin" | .denon => "denon"
  | .unknown => "unknown" | .raw => "raw" | .panasonicBytes => "panasonic_bytes" | .delay => "delay"

/-! Text -/

/-- A character between tokens. -/
def isBlank (c : Char) : Bool := c == ' ' || c == '\t'

/-- A token without the blanks around it. -/
def trimBlanks (cs : List Char) : List Char := ((cs.dropWhile isBlank).reverse.dropWhile isBlank).reverse

/-- The parts of a text between the separators. -/
def splitAt (sep : Char) : List Char → List (List Char)
  | [] => [[]]
  | c :: cs =>
    if c == sep then [] :: splitAt sep cs
    else match splitAt sep cs with
      | [] => [[c]]
      | w :: ws => (c :: w) :: ws

/-- The value of a digit in a base up to 16. -/
def digitValue (base : Nat) (c : Char) : Option Nat :=
  let v :=
    if '0' ≤ c ∧ c ≤ '9' then c.toNat - '0'.toNat
    else if 'a' ≤ c ∧ c ≤ 'f' then c.toNat - 'a'.toNat + 10
    else if 'A' ≤ c ∧ c ≤ 'F' then c.toNat - 'A'.toNat + 10
    else 16
  if v < base then some v else none

/-- Digits in a base, the most significant first, after the number `acc`. -/
def digitsFrom (base : Nat) : List Char → Nat → Option Nat
  | [], acc => some acc
  | c :: cs, acc => (digitValue base c).bind fun v => digitsFrom base cs (acc * base + v)

/-- One or more digits in a base. -/
def parseDigits (base : Nat) : List Char → Option Nat
  | [] => none
  | cs => digitsFrom base cs 0

/-- A number without a sign: decimal, hexadecimal with 0x, binary with 0b (R77). -/
def parseUnsigned : List Char → Option Nat
  | '0' :: 'x' :: cs => parseDigits 16 cs
  | '0' :: 'b' :: cs => parseDigits 2 cs
  | cs => parseDigits 10 cs

/-- A number; a negative one is written with a minus sign (R77). -/
def parseNumber : List Char → Option Int
  | '-' :: cs => (parseUnsigned cs).map fun v => -(v : Int)
  | cs => (parseUnsigned cs).map fun v => (v : Int)

/-! Operands -/

/-- A buffer register, B0 to B15 (R77). -/
def regArg (cs : List Char) : Option Reg :=
  (List.finRange 16).find? fun r =>
    cs == (if r.val < 10 then ['B', Char.ofNat (48 + r.val)] else ['B', '1', Char.ofNat (38 + r.val)])

/-- A number from 0 up to below a bound. -/
def natArg (bound : Nat) (cs : List Char) : Option Nat :=
  (parseNumber cs).bind fun v => if 0 ≤ v ∧ v < bound then some v.toNat else none

/-- A signed 16-bit number. -/
def int16Arg (cs : List Char) : Option Int :=
  (parseNumber cs).bind fun v => if -32768 ≤ v ∧ v < 32768 then some v else none

/-- An option field by its name (R77). -/
def fieldArg (cs : List Char) : Option Field := fields.find? fun f => (fieldName f).toList == cs

/-- A tag: a number, or a name of the enumeration (R77). -/
def tagArg (cs : List Char) : Option Int :=
  match encodings.find? fun e => (encodingName e).toList == cs with
  | some e => some (encodingValue e)
  | none => int16Arg cs

/-! Commands -/

/-- The word of a Daiko command, the 4-bit channel number in w[19:16] as the assembler writes it (R77). -/
def daikoWord (i : BitVec 1 → Instr) (ch : Nat) : Word := encode (i (BitVec.ofNat 1 ch)) ||| (BitVec.ofNat 32 ch <<< 16)

/-- A Daiko command with a register and a channel (R77). -/
def assembleDaiko (i : Reg → BitVec 1 → Instr) (d c : List Char) : Option (List Word) := do
  let rd ← regArg d
  let ch ← natArg 16 c
  some [daikoWord (i rd) ch]

/-- A command with a destination register alone. -/
def assembleRd (i : Reg → Instr) (d : List Char) : Option (List Word) := (regArg d).map fun rd => [encode (i rd)]

/-- `OPTSET field, value`, or `OPTNUL field` where the value is the word unset (R77, R78). -/
def assembleOpt (f v : List Char) : Option (List Word) := do
  let fld ← fieldArg f
  if v == "unset".toList then some [encode (.optnul (fieldId fld))]
  else
    let n ← natArg 65536 v
    some [encode (.optset (fieldId fld) (BitVec.ofNat 16 n))]

/-- A tagging command with its three operands (R77). -/
def assembleTag (i : Reg → Reg → Int → Instr) (d r t : List Char) : Option (List Word) := do
  let rd ← regArg d
  let rs ← regArg r
  let tag ← tagArg t
  some [encode (i rd rs tag)]

/-- The pseudo-instruction LIT: BCLR, then one APPB for each byte (R78). -/
def litInstrs (rd : Reg) (bytes : List Byte) : List Instr := .bclr rd :: bytes.map (.appb rd)

/-- The pseudo-instruction WORDS: BCLR, then one APPW for each value (R78). With no values, BCLR alone: DESIGN CHOICE, since R78 gives an
empty form for LIT only (log 20). -/
def wordsInstrs (rd : Reg) (values : List (BitVec 16)) : List Instr := .bclr rd :: values.map (.appw rd)

/-- The words of a line from its mnemonic and its operands (R77, R78). What R77 and R78 leave open is a DESIGN CHOICE (log 20): `WORDS Bd`
with no values is accepted and is `BCLR Bd` alone, and OPTSET does not take the word unset. -/
def assembleOp (mnemonic : List Char) (args : List (List Char)) : Option (List Word) :=
  match String.ofList mnemonic, args with
  | "BCLR", [d] => assembleRd .bclr d
  | "APPB", [d, b] => do
    let rd ← regArg d
    let v ← natArg 256 b
    some [encode (.appb rd (BitVec.ofNat 8 v))]
  | "APPW", [d, v] => do
    let rd ← regArg d
    let n ← int16Arg v
    some [encode (.appw rd (BitVec.ofInt 16 n))]
  | "OPTCLR", [] => some [encode .optclr]
  | "OPTSET", [f, v] => if v == "unset".toList then none else assembleOpt f v
  | "OPTNUL", [f] => assembleOpt f "unset".toList
  | "CKSUM", [d, r, a, n] => do
    let rd ← regArg d
    let rs ← regArg r
    let start ← natArg 256 a
    let len ← natArg 256 n
    some [encode (.cksum rd rs start len)]
  | "TPACK", [d] => assembleRd .tpack d
  | "DAIKIN", [d] => assembleRd .daikin d
  | "MITSU", [d] => assembleRd .mitsu d
  | "DKOFF", [d, c] => assembleDaiko .dkoff d c
  | "DKTOG", [d, c] => assembleDaiko .dktog d c
  | "DKWHT", [d, c] => assembleDaiko .dkwht d c
  | "DKFUL", [d, c] => assembleDaiko .dkful d c
  | "DKWRM", [d, c] => assembleDaiko .dkwrm d c
  | "DKNGT", [d, c, i] => (natArg 16 i).bind fun n => assembleDaiko (fun rd ch => .dkngt rd ch n) d c
  | "DKON", [d, c, w, b] => do
    let warmth ← natArg 128 w
    let brightness ← natArg 128 b
    assembleDaiko (fun rd ch => .dkon rd ch warmth brightness) d c
  | "WENC1", [d, r, t] => assembleTag .wenc1 d r t
  | "WENC4", [d, r, t] => assembleTag .wenc4 d r t
  | "BUNDLE", [d, r, n] => do
    let rd ← regArg d
    let rs ← regArg r
    let k ← natArg 32 n
    some [encode (.bundle rd rs k)]
  | "DELAY", [d, m] => do
    let rd ← regArg d
    let ms ← natArg 65536 m
    some [encode (.delay rd (BitVec.ofNat 16 ms))]
  | "PANINT", [d, r] => do
    let rd ← regArg d
    let rs ← regArg r
    some [encode (.panint rd rs)]
  | "EMIT", [r, t] => do
    let rs ← regArg r
    let topic ← natArg 65536 t
    some [encode (.emit rs (BitVec.ofNat 16 topic))]
  | "LIT", d :: bs => do
    let rd ← regArg d
    let bytes ← bs.mapM (natArg 256)
    some ((litInstrs rd (bytes.map (BitVec.ofNat 8))).map encode)
  | "WORDS", d :: vs => do
    let rd ← regArg d
    let values ← vs.mapM int16Arg
    some ((wordsInstrs rd (values.map (BitVec.ofInt 16))).map encode)
  | "OPT", [a] =>
    match (splitAt '=' a).map trimBlanks with
    | [f, v] => assembleOpt f v
    | _ => none
  | _, _ => none

/-- The words of one line: a comment runs from a semicolon to the end, the mnemonic comes first, operands stand between commas
(R77). A line without a command gives no word. -/
def assembleLine (line : List Char) : Option (List Word) :=
  let text := trimBlanks (line.takeWhile fun c => c != ';')
  let mnemonic := text.takeWhile fun c => !isBlank c
  let operands := trimBlanks (text.dropWhile fun c => !isBlank c)
  if text.isEmpty then some []
  else assembleOp mnemonic (if operands.isEmpty then [] else (splitAt ',' operands).map trimBlanks)

/-- The words of a program text, line by line; one refused line refuses the text (log 20). -/
def assembleText (text : List Char) : Option (List Word) := (((splitAt '\n' text).mapM assembleLine).map List.flatten)

end Sys2Proof.Machine
end

