-- ==== Sys2Proof/Safety.lean ====
section
/-! DEFINITION. The terms claims are made in: the legal states (10_state R23, R25, R26, R27), the state each command reads and
writes (10_state R33), and a run in which no fault is recorded (R27). -/

namespace Sys2Proof.Machine

/-- What a slot of a field may hold (R25): nothing, a number inside the field's range, or unset in a nullable field. -/
def slotLegal (f : Field) : Slot → Bool
  | .absent => true
  | .num v => fieldMin f ≤ v && v ≤ fieldMax f
  | .unset => fieldNullable f

/-- The legal states: every reachable state is one (log 12). -/
structure State.Legal (s : State) : Prop where
  /-- No buffer is longer than BUFCAP (R23). -/
  bufLength : ∀ (r : Reg) (b : Buffer), s.buf[r] = some b → b.length ≤ bufCap
  /-- Every option slot is legal (R25). -/
  optLegal : ∀ f : Field, slotLegal f (optGet s.opt f) = true
  /-- ERR is 0 to 7 (R30, R260). -/
  errRange : s.err.toNat ≤ 7
  /-- A status other than OK has been recorded in FLT (R27). -/
  errRecorded : s.err ≠ 0#8 → s.flt = true
  /-- No buffer handed to the sink is longer than BUFCAP. -/
  sinkLength : ∀ e ∈ s.sink, e.bytes.length ≤ bufCap

/-- "No fault recorded" since reset (R27). -/
def noFaultRecorded (s : State) : Prop := s.flt = false

/-- The buffer registers a command reads (R33). -/
def sourceRegs : Instr → List Reg
  | .bclr _ => []
  | .appb rd _ => [rd]
  | .appw rd _ => [rd]
  | .optclr => []
  | .optset _ _ => []
  | .optnul _ => []
  | .cksum _ rs _ _ => [rs]
  | .tpack _ => []
  | .daikin _ => []
  | .mitsu _ => []
  | .dkoff _ _ => []
  | .dktog _ _ => []
  | .dkwht _ _ => []
  | .dkful _ _ => []
  | .dkwrm _ _ => []
  | .dkngt _ _ _ => []
  | .dkon _ _ _ _ => []
  | .wenc1 _ rs _ => [rs]
  | .wenc4 _ rs _ => [rs]
  | .bundle _ rs n => (List.finRange 16).filter fun r => rs.val ≤ r.val && r.val < rs.val + n
  | .delay _ _ => []
  | .panint _ rs => [rs]
  | .emit rs _ => [rs]

/-- The buffer registers a command writes when it succeeds (R33). -/
def destRegs : Instr → List Reg
  | .bclr rd => [rd]
  | .appb rd _ => [rd]
  | .appw rd _ => [rd]
  | .optclr => []
  | .optset _ _ => []
  | .optnul _ => []
  | .cksum rd _ _ _ => [rd]
  | .tpack rd => [rd]
  | .daikin rd => [rd, rd + 1]
  | .mitsu rd => [rd]
  | .dkoff rd _ => [rd]
  | .dktog rd _ => [rd]
  | .dkwht rd _ => [rd]
  | .dkful rd _ => [rd]
  | .dkwrm rd _ => [rd]
  | .dkngt rd _ _ => [rd]
  | .dkon rd _ _ _ => [rd]
  | .wenc1 rd _ _ => [rd]
  | .wenc4 rd _ _ => [rd]
  | .bundle rd _ _ => [rd]
  | .delay rd _ => [rd]
  | .panint rd _ => [rd]
  | .emit _ _ => []

/-- The state after a command that succeeds and writes one register: `B[rd]` valid and holding `v`, ERR 0, all else as in `s`. -/
def State.withResult (s : State) (rd : Reg) (v : Buffer) : State :=
  { s with buf := s.buf.set rd.val (some v) rd.isLt, err := 0#8 }

/-- The state after a command that fails with a status code: ERR and FLT written, all else as in `s` (60_exceptions R262). -/
def State.withError (s : State) (code : BitVec 8) : State := { s with err := code, flt := true }

/-- The encoding of a command (30_encoding R72, R74): a word with opcode byte `op` whose bits in `zero` are all 0 is the command `i w`,
and one with such a bit set is illegal, status E_ILLEGAL (1), in every state. -/
def Encodes (op : BitVec 8) (zero : Word) (i : Word → Instr) : Prop :=
  ∀ w : Word, opcodeOf w = op →
    (w &&& zero = 0#32 → decode w = .ok (i w)) ∧
    (w &&& zero ≠ 0#32 → ∀ s : State, execWord w s = .next (s.withError 1#8))

/-- A row of the option table (40_buffer R108). -/
structure OptionRow where
  fid      : BitVec 8
  field    : Field
  least    : Nat
  greatest : Nat
  nullable : Bool
deriving DecidableEq, Repr

/-- The option table as R108 prints it. -/
def optionTable : List OptionRow :=
  [⟨0x00, .dkPower, 0, 1, false⟩, ⟨0x01, .dkMode, 0, 7, false⟩, ⟨0x02, .dkTemperature, 0, 127, false⟩,
   ⟨0x03, .dkFanSpeed, 0, 15, false⟩, ⟨0x04, .dkVaneDirection, 0, 15, false⟩, ⟨0x05, .dkLeftRight, 0, 15, false⟩] ++
  [⟨0x06, .dkSilent, 0, 1, false⟩, ⟨0x07, .dkPowerfulMode, 0, 1, false⟩, ⟨0x08, .dkIntelligentOn, 0, 1, false⟩,
   ⟨0x09, .dkOnTimerSet, 0, 1, false⟩, ⟨0x0A, .dkOffTimerSet, 0, 1, false⟩, ⟨0x0B, .dkOnTimer, 0, 2047, true⟩] ++
  [⟨0x0C, .dkOffTimer, 0, 255, true⟩, ⟨0x0D, .dkFanYonder, 0, 255, false⟩, ⟨0x10, .miTimerMode, 0, 3, false⟩,
   ⟨0x11, .miOn, 0, 1, false⟩, ⟨0x12, .miDryIntensity, 0, 3, false⟩, ⟨0x13, .miMode, 0, 3, false⟩] ++
  [⟨0x14, .miTemperature, 16, 31, false⟩, ⟨0x15, .miIsTimerCommand, 0, 3, false⟩, ⟨0x16, .miWindDirection, 0, 7, false⟩,
   ⟨0x17, .miWindSpeed, 0, 7, false⟩, ⟨0x18, .miTimerValue, 0, 255, false⟩, ⟨0x19, .miCoolFeeling, 0, 1, false⟩]

/-- A merged field (R109): the supplied number when the slot is present, the default when it is absent. -/
def MergedBits {w : Nat} (slot : Slot) (dflt x : BitVec w) : Prop :=
  (slot = .absent → x = dflt) ∧ ∀ v : BitVec w, slot = .num v.toNat → x = v

/-- A merged timer (R109): the supplied number or unset when the slot is present, the default when it is absent. -/
def MergedTimer {w : Nat} (slot : Slot) (dflt x : Option (BitVec w)) : Prop :=
  (slot = .absent → x = dflt) ∧ (slot = .unset → x = none) ∧ ∀ v : BitVec w, slot = .num v.toNat → x = some v

/-- The timer TPACK takes from a slot (41_checksum R130): the number supplied, unset for a slot that is absent or unset. -/
def BareTimer {w : Nat} (slot : Slot) (x : Option (BitVec w)) : Prop :=
  (x = none ∧ (slot = .absent ∨ slot = .unset)) ∨ ∃ v : BitVec w, x = some v ∧ slot = .num v.toNat

/-- The commands that read OPT (R33, R107). -/
def readsOpt : Instr → Bool
  | .tpack _ | .daikin _ | .mitsu _ => true
  | .bclr _ | .appb _ _ | .appw _ _ | .optclr | .optset _ _ | .optnul _ | .cksum _ _ _ _ | .dkoff _ _ | .dktog _ _
  | .dkwht _ _ | .dkful _ _ | .dkwrm _ _ | .dkngt _ _ _ | .dkon _ _ _ _ | .wenc1 _ _ _ | .wenc4 _ _ _ | .bundle _ _ _
  | .delay _ _ | .panint _ _ | .emit _ _ => false

/-- The commands that write OPT when they succeed (R33). -/
def writesOpt : Instr → Bool
  | .optclr | .optset _ _ | .optnul _ | .tpack _ | .daikin _ | .mitsu _ => true
  | .bclr _ | .appb _ _ | .appw _ _ | .cksum _ _ _ _ | .dkoff _ _ | .dktog _ _ | .dkwht _ _ | .dkful _ _ | .dkwrm _ _
  | .dkngt _ _ _ | .dkon _ _ _ _ | .wenc1 _ _ _ | .wenc4 _ _ _ | .bundle _ _ _ | .delay _ _ | .panint _ _
  | .emit _ _ => false

/-- The one command that writes SINK (R28, R33). -/
def writesSink : Instr → Bool
  | .emit _ _ => true
  | .bclr _ | .appb _ _ | .appw _ _ | .optclr | .optset _ _ | .optnul _ | .cksum _ _ _ _ | .tpack _ | .daikin _ | .mitsu _
  | .dkoff _ _ | .dktog _ _ | .dkwht _ _ | .dkful _ _ | .dkwrm _ _ | .dkngt _ _ _ | .dkon _ _ _ _ | .wenc1 _ _ _
  | .wenc4 _ _ _ | .bundle _ _ _ | .delay _ _ | .panint _ _ => false

end Sys2Proof.Machine
end

