-- ==== Sys2Proof/Certificates/Slice0/Obligations.lean ====
section
/-! DEFINITION. The statements about IRX, one definition each, in the order of the spec's files. In a conclusion
`exec i s = .next (s.withResult rd v)` the state on the right fixes every field: B[rd] valid and holding `v`, ERR 0, and every other
register, OPT, FLT, SINK and the host's list as in `s`; so it is the command's result, its completion and its frame at once. In
`s.withError c` only ERR and FLT differ from `s`. `Encodes op zero i` says which words are the command and that any other word of its
opcode is E_ILLEGAL. -/

open Sys2Proof Sys2Proof.Machine

/-! ## Reset, and the machine as a whole (10_state, 20_memory, 60_exceptions, 70_reset) -/

/-- R32, R290: after the reset signal (which the model takes from the host's list, logs 1 and 2), and at `State.reset`, every
register is invalid, every option slot absent, ERR 0, FLT 0, SINK empty, and IRX waits for the first command word. -/
def Obligations.ResetLeavesTheResetState : Prop :=
  (∀ (s : State) (rest : List HostEvent), s.host = .reset :: rest →
    ∃ t, step s = .next t ∧ (∀ r : Reg, t.buf[r] = none) ∧ (∀ f : Field, optGet t.opt f = .absent) ∧ t.err = 0#8 ∧
      t.flt = false ∧ t.sink = []) ∧
  (∀ r : Reg, State.reset.buf[r] = none) ∧ (∀ f : Field, optGet State.reset.opt f = .absent) ∧ State.reset.err = 0#8 ∧
  State.reset.flt = false ∧ State.reset.sink = [] ∧ step State.reset = .next State.reset

/-- The reset state is legal: buffers within BUFCAP (R23), option slots in range (R25), ERR at most 7 (R30), a failure recorded in FLT
(R27), sink entries within BUFCAP. -/
def Obligations.ResetStateIsLegal : Prop := State.reset.Legal

/-- Every step, whatever the host does next, keeps a legal state legal (R23, R25, R27, R30). -/
def Obligations.EveryStepKeepsStatesLegal : Prop :=
  ∀ s t : State, s.Legal → step s = .next t → t.Legal

/-- Every command completes with one of the status codes 0 to 7 in ERR, from every state (R260, R301). -/
def Obligations.EveryCommandCompletesWithAStatus : Prop :=
  (∀ (i : Instr) (s : State), ∃ t, exec i s = .next t ∧ t.err.toNat ≤ 7) ∧ ∀ s : State, ∃ t, step s = .next t

/-- R262: a command word that ends with a code other than 0 writes ERR and sets FLT and does nothing else; one that ends with 0 leaves
FLT as it was. (That the word leaves the host's list is the model's choice, log 1.) -/
def Obligations.FailingCommandWritesOnlyItsStatus : Prop :=
  ∀ (s t : State) (w : Word) (rest : List HostEvent), s.host = .command w :: rest → step s = .next t →
    (t.err ≠ 0#8 → t = { s with host := rest, err := t.err, flt := true }) ∧ (t.err = 0#8 → t.flt = s.flt)

/-- R291: a step that is not a reset clears no fault flag, invalidates no register and takes nothing from SINK. -/
def Obligations.OnlyResetClearsFaultRegistersOrSink : Prop :=
  ∀ s t : State, (∀ rest, s.host ≠ .reset :: rest) → step s = .next t →
    (s.flt = true → t.flt = true) ∧ (∀ r : Reg, s.buf[r] ≠ none → t.buf[r] ≠ none) ∧ s.sink <+: t.sink

/-- The frame of all 23 commands (the "writes" column of R33): a register that is not a destination, OPT for a command that does not
write it, SINK for a command other than EMIT, and the host's list are unchanged; FLT is set exactly by a status other than OK. -/
def Obligations.CommandsWriteOnlyTheirDestinations : Prop :=
  ∀ (i : Instr) (s t : State), exec i s = .next t →
    (∀ r : Reg, r ∉ destRegs i → t.buf[r] = s.buf[r]) ∧ (writesOpt i = false → t.opt = s.opt) ∧
    (writesSink i = false → t.sink = s.sink) ∧ t.host = s.host ∧ t.flt = (s.flt || decide (t.err ≠ 0#8))

/-- The "reads" column of R33: two states that agree on the registers a command reads, and on OPT where it reads OPT, give the same
status, and on success the same destination registers and the same addition to SINK. ERR, FLT, SINK and the other registers are
read by no command. What OPTCLR, OPTSET and OPTNUL write to OPT is stated with those commands. -/
def Obligations.ResultsDependOnlyOnTheSources : Prop :=
  ∀ (i : Instr) (s t s' t' : State), (∀ r ∈ sourceRegs i, s.buf[r] = t.buf[r]) → (readsOpt i = true → s.opt = t.opt) →
    exec i s = .next s' → exec i t = .next t' →
    s'.err = t'.err ∧
    (s'.err = 0#8 → (∀ r ∈ destRegs i, s'.buf[r] = t'.buf[r]) ∧
      ∃ more, s'.sink = s.sink ++ more ∧ t'.sink = t.sink ++ more)

/-- A step runs the command that the word on the port decodes to, on the state whose host list has lost that word (R70; the list is
the model's choice, log 1). -/
def Obligations.StepRunsTheDecodedCommand : Prop :=
  ∀ (s : State) (w : Word) (rest : List HostEvent) (i : Instr), s.host = .command w :: rest → decode w = .ok i →
    step s = exec i { s with host := rest }

/-- A run from reset takes one step for each word of the host's program and then the host has nothing left (R302; the list is the
model's choice, log 1). -/
def Obligations.RunTakesOneStepPerWord : Prop :=
  ∀ words : List Word, ∃ t, Host.Core.run Sys2Proof.core words.length (programState words) = .next t ∧ t.host = []

/-! ## The command word (30_encoding) -/

/-- R74: a word that matches no row of the opcode table ends with E_ILLEGAL, code 1, and changes nothing but ERR and FLT; the decoder
accepts a word exactly when a row of the table matches it, it gives that row's command, and no two rows match the same word. (That the
word leaves the host's list is the model's choice, log 1.) -/
def Obligations.DecoderAcceptsExactlyTheTable : Prop :=
  (∀ (s : State) (w : Word) (rest : List HostEvent), s.host = .command w :: rest →
    (∀ row ∈ opcodeRows, w &&& row.mask ≠ row.pattern) →
    step s = .next { s with host := rest, err := 1#8, flt := true }) ∧
  (∀ w : Word, (∃ i, decode w = .ok i) ↔ ∃ row ∈ opcodeRows, w &&& row.mask = row.pattern) ∧
  (∀ (w : Word) (i : Instr), decode w = .ok i →
    ∀ row ∈ opcodeRows, w &&& row.mask = row.pattern → row.mnemonic = mnemonicOf i) ∧
  ∀ (w : Word), ∀ a ∈ opcodeRows, ∀ b ∈ opcodeRows, w &&& a.mask = a.pattern → w &&& b.mask = b.pattern → a = b

/-- Decoding an encoded well-formed command gives it back, every operand at every value (R71 to R73). -/
def Obligations.DecodeOfEncodeIsTheCommand : Prop :=
  ∀ i : Instr, i.wellFormed = true → decode (encode i) = .ok i

/-- A decoded command is well-formed, and encoding it gives the word back but for the ignored bits w[19:17] of the Daiko commands
(R72, R75; the encoder's zeros there are log 10). -/
def Obligations.EncodeOfDecodeIsTheWord : Prop :=
  ∀ (w : Word) (i : Instr), decode w = .ok i → i.wellFormed = true ∧ encode i = w &&& ~~~ ignoredBits i

/-- The bits w[19:17] of a Daiko command have no effect (R72, R75). -/
def Obligations.DaikoSelectorBitsAreIgnored : Prop :=
  ∀ w x : Word, 0x40 ≤ (opcodeOf w).toNat → (opcodeOf w).toNat ≤ 0x46 →
    decode (w ^^^ (x &&& 0x000E0000#32)) = decode w

/-- Words written out from the fields of R71 and R72 decode to the commands they stand for, in every family. The all-zero and all-ones
words decode to none (R74); that the decoder names why, `reservedOpcode`, is the model's choice (log 23). -/
def Obligations.WrittenWordsDecode : Prop :=
  decode 0b00000001001100000000000000000000#32 = .ok (.bclr 3) ∧
  decode 0b00000010000000000000000010000101#32 = .ok (.appb 0 0x85) ∧
  decode 0b00001001000000100000000000011001#32 = .ok (.optset 2 25) ∧
  decode 0b00010000000100000000000000000011#32 = .ok (.cksum 1 0 0 3) ∧
  decode 0b00010001001000000000000000000000#32 = .ok (.tpack 2) ∧
  decode 0b00100000000000000000000000000000#32 = .ok (.daikin 0) ∧
  decode 0b00110000010000000000000000000000#32 = .ok (.mitsu 4) ∧
  decode 0b01000110000000010000101000001010#32 = .ok (.dkon 0 1 10 10) ∧
  decode 0b01010001001000011111111111111111#32 = .ok (.wenc4 2 1 (-1)) ∧
  decode 0b01010010001100000000000000000010#32 = .ok (.bundle 3 0 2) ∧
  decode 0b01100000000100000000000000000000#32 = .ok (.panint 1 0) ∧
  decode 0b01110000000000110000000000000111#32 = .ok (.emit 3 7) ∧
  decode 0#32 = .error (.reservedOpcode 0) ∧ decode 0xFFFFFFFF#32 = .error (.reservedOpcode 0xFF)

/-- The pseudo-instruction LIT of R78, as the words the host sends, leaves the literal bytes in the register, and WORDS the little-endian
words, with status OK and nothing else changed (R100 to R103). (That the words leave the host's list is the model's choice, log 1, and so
is WORDS with no values, log 20.) -/
def Obligations.LiteralLoadsLeaveTheirBytes : Prop :=
  (∀ (s : State) (rd : Reg) (bytes : List Byte) (rest : List HostEvent), bytes.length ≤ 65535 →
    s.host = (litInstrs rd bytes).map (fun i => HostEvent.command (encode i)) ++ rest →
    Host.Core.run Sys2Proof.core (bytes.length + 1) s = .next (State.withResult { s with host := rest } rd bytes)) ∧
  ∀ (s : State) (rd : Reg) (values : List (BitVec 16)) (rest : List HostEvent), 4 * values.length ≤ 65535 →
    s.host = (wordsInstrs rd values).map (fun i => HostEvent.command (encode i)) ++ rest →
    Host.Core.run Sys2Proof.core (values.length + 1) s =
      .next (State.withResult { s with host := rest } rd (toBuffer (values.map (BitVec.signExtend 32))))

/-! ## Buffer and option commands (40_buffer_and_options) -/

/-- R100: BCLR makes B[rd] valid with length 0, whatever it held. -/
def Obligations.BclrMakesTheEmptyBuffer : Prop :=
  Encodes 0x01#8 0x000FFFFF#32 (fun w => .bclr (rdOf w)) ∧
  ∀ (s : State) (rd : Reg), exec (.bclr rd) s = .next (s.withResult rd [])

/-- R101: APPB appends one byte; E_UNWRITTEN (4) for an invalid register, E_CAPACITY (6) for a full one. -/
def Obligations.AppbAppendsOneByte : Prop :=
  Encodes 0x02#8 0x000FFF00#32 (fun w => .appb (rdOf w) (w.extractLsb' 0 8)) ∧
  ∀ (s : State) (rd : Reg) (imm8 : Byte),
    (∀ b, s.buf[rd] = some b → b.length < 65535 → exec (.appb rd imm8) s = .next (s.withResult rd (b ++ [imm8]))) ∧
    (s.buf[rd] = none → exec (.appb rd imm8) s = .next (s.withError 4#8)) ∧
    (∀ b, s.buf[rd] = some b → 65535 ≤ b.length → exec (.appb rd imm8) s = .next (s.withError 6#8))

/-- R102: APPW appends the four bytes, least significant first, of the 32-bit word whose signed value is that of the immediate;
E_UNWRITTEN (4) for an invalid register, E_CAPACITY (6) when four bytes do not fit. -/
def Obligations.AppwAppendsOneSignedWord : Prop :=
  Encodes 0x03#8 0x000F0000#32 (fun w => .appw (rdOf w) (immOf w)) ∧
  ∀ (s : State) (rd : Reg) (imm16 : BitVec 16) (v : Word), v.toInt = imm16.toInt →
    (∀ b, s.buf[rd] = some b → b.length + 4 ≤ 65535 →
      exec (.appw rd imm16) s = .next (s.withResult rd
        (b ++ [v.extractLsb' 0 8, v.extractLsb' 8 8, v.extractLsb' 16 8, v.extractLsb' 24 8]))) ∧
    (s.buf[rd] = none → exec (.appw rd imm16) s = .next (s.withError 4#8)) ∧
    (∀ b, s.buf[rd] = some b → 65535 < b.length + 4 → exec (.appw rd imm16) s = .next (s.withError 6#8))

/-- R103: to_buffer gives 4 bytes a word, and the four bytes at offset 4k are word k, least significant byte first, so that a reader
gets the word back. -/
def Obligations.ToBufferHoldsEachWordLittleEndian : Prop :=
  toBuffer [] = [] ∧
  ∀ words : List Word, (toBuffer words).length = 4 * words.length ∧
    ∀ (k : Nat) (v : Word), words[k]? = some v →
      ((toBuffer words).drop (4 * k)).take 4 =
        [v.extractLsb' 0 8, v.extractLsb' 8 8, v.extractLsb' 16 8, v.extractLsb' 24 8] ∧
      v.toNat = (v.extractLsb' 0 8).toNat + 256 * (v.extractLsb' 8 8).toNat + 65536 * (v.extractLsb' 16 8).toNat +
        16777216 * (v.extractLsb' 24 8).toNat

/-- R104: OPTCLR makes every slot absent and changes nothing else but ERR. -/
def Obligations.OptclrEmptiesTheOptions : Prop :=
  Encodes 0x08#8 0x00FFFFFF#32 (fun _ => .optclr) ∧
  ∀ s : State, ∃ o : OptRec, (∀ f : Field, optGet o f = .absent) ∧ exec .optclr s = .next { s with opt := o, err := 0#8 }

/-- R105 with the table of R108: OPTSET of a field of the table and a value in its range makes that slot present with the value and
leaves the others; any other id or value ends with E_OPTION (7). -/
def Obligations.OptsetAcceptsExactlyTheTable : Prop :=
  Encodes 0x09#8 0#32 (fun w => .optset (fidOf w) (immOf w)) ∧
  (∀ row ∈ optionTable, ∀ (v : BitVec 16) (s : State), row.least ≤ v.toNat → v.toNat ≤ row.greatest →
    ∃ o : OptRec, optGet o row.field = .num v.toNat ∧ (∀ g : Field, g ≠ row.field → optGet o g = optGet s.opt g) ∧
      exec (.optset row.fid v) s = .next { s with opt := o, err := 0#8 }) ∧
  ∀ (fid : BitVec 8) (v : BitVec 16) (s : State),
    (∀ row ∈ optionTable, row.fid = fid → ¬ (row.least ≤ v.toNat ∧ v.toNat ≤ row.greatest)) →
    exec (.optset fid v) s = .next (s.withError 7#8)

/-- R106: OPTNUL of 0x0B or 0x0C makes that timer's slot present(unset) and leaves the others; any other id ends with E_OPTION (7). -/
def Obligations.OptnulUnsetsTheTimersOnly : Prop :=
  Encodes 0x0A#8 0x0000FFFF#32 (fun w => .optnul (fidOf w)) ∧
  (∀ row ∈ optionTable, row.fid = 0x0B#8 ∨ row.fid = 0x0C#8 → ∀ s : State,
    ∃ o : OptRec, optGet o row.field = .unset ∧ (∀ g : Field, g ≠ row.field → optGet o g = optGet s.opt g) ∧
      exec (.optnul row.fid) s = .next { s with opt := o, err := 0#8 }) ∧
  ∀ (fid : BitVec 8) (s : State), fid ≠ 0x0B#8 → fid ≠ 0x0C#8 → exec (.optnul fid) s = .next (s.withError 7#8)

/-- R107: TPACK, DAIKIN and MITSU make every slot absent when they succeed and leave OPT when they fail. -/
def Obligations.EncodersConsumeTheOptions : Prop :=
  ∀ (i : Instr) (s t : State), readsOpt i = true → exec i s = .next t →
    (t.err = 0#8 → ∀ f : Field, optGet t.opt f = .absent) ∧ (t.err ≠ 0#8 → t.opt = s.opt)

/-! ## Checksum and timer (41_checksum_timer) -/

/-- R120: the checksum is the sum of the n bytes from offset start, modulo 256; it is 0 for n = 0, the same when the sum is reduced at
every step, and does not depend on the order of the bytes. -/
def Obligations.ChecksumIsTheSumModulo256 : Prop :=
  (∀ (b : Buffer) (start n : Nat), start + n ≤ b.length →
    (checksum b start n).toNat = ((List.range n).map fun k => (b[start + k]?.getD 0#8).toNat).sum % 256) ∧
  (∀ (b : Buffer) (start : Nat), checksum b start 0 = 0#8) ∧
  (∀ b : Buffer, checksum b 0 b.length = b.foldl (fun acc x => acc + x) 0#8) ∧
  ∀ a b : Buffer, a.Perm b → checksum a 0 a.length = checksum b 0 b.length

/-- R122: CKSUM leaves the one byte; E_UNWRITTEN (4) for an invalid source, then E_RANGE (5) past its end. -/
def Obligations.CksumLeavesTheChecksum : Prop :=
  Encodes 0x10#8 0#32 (fun w => .cksum (rdOf w) (rsOf w) (w.extractLsb' 8 8).toNat (w.extractLsb' 0 8).toNat) ∧
  ∀ (s : State) (rd rs : Reg) (start len : Nat),
    (∀ b, s.buf[rs] = some b → start + len ≤ b.length →
      exec (.cksum rd rs start len) s = .next (s.withResult rd [checksum b start len])) ∧
    (s.buf[rs] = none → exec (.cksum rd rs start len) s = .next (s.withError 4#8)) ∧
    (∀ b, s.buf[rs] = some b → b.length < start + len → exec (.cksum rd rs start len) s = .next (s.withError 5#8))

/-- R124 to R128: the three timer bytes. Byte 0 is on_low, bits 6:4 of byte 1 are on_high, the bit TIMER_OFF_LOW_POS of byte 1 is
off_low, every other bit of byte 1 is 0, byte 2 is off_high; an unset timer has low part 0 and the sentinel high part. -/
def Obligations.TimerBytesHoldTheirParts : Prop :=
  ∀ (pos : OffLowPos) (on : Option (BitVec 11)) (off : Option (BitVec 8)),
    ∃ t0 t1 t2 : Byte, timerPack pos on off = [t0, t1, t2] ∧
      t0.toNat = (match on with | some v => v.toNat % 256 | none => 0) ∧
      (t1.extractLsb' 4 3).toNat = (match on with | some v => v.toNat / 256 | none => 0b110) ∧
      t1.getLsbD (offLowBit pos) = (match off with | some v => v.getLsbD 0 | none => false) ∧
      (∀ k, k < 8 → k ≠ 4 → k ≠ 5 → k ≠ 6 → k ≠ offLowBit pos → t1.getLsbD k = false) ∧
      t2.toNat = (match off with | some v => v.toNat / 2 | none => 0b1100000)

/-- The sentinel and its collisions (R129, which the spec derives from R125 to R128), at every bit position of off_low. -/
def Obligations.TimerSentinelAndItsCollisions : Prop :=
  ∀ pos : OffLowPos,
    timerPack pos none none = [0x00#8, 0x60#8, 0x60#8] ∧ timerPack pos (some 0) (some 0) = [0x00#8, 0x00#8, 0x00#8] ∧
    timerPack pos (some 1536) none = timerPack pos none none ∧
    timerPack pos none (some 192) = timerPack pos none none ∧
    timerPack pos none (some 193) ≠ timerPack pos none none ∧
    ∀ v : BitVec 11, onHigh (some v) = onHigh none ↔ 1536 ≤ v.toNat ∧ v.toNat ≤ 1791

/-- R130: with no field but the two timers present, TPACK leaves the packed timers and empties OPT; with another field present it ends
with E_OPTION (7). -/
def Obligations.TpackPacksTheSuppliedTimers : Prop :=
  Encodes 0x11#8 0x000FFFFF#32 (fun w => .tpack (rdOf w)) ∧
  ∀ (s : State) (rd : Reg),
    (∀ (on : Option (BitVec 11)) (off : Option (BitVec 8)),
      (∀ f : Field, f ≠ .dkOnTimer → f ≠ .dkOffTimer → optGet s.opt f = .absent) →
      BareTimer (optGet s.opt .dkOnTimer) on → BareTimer (optGet s.opt .dkOffTimer) off →
      exec (.tpack rd) s = .next { s.withResult rd (timerPack Config.cfg.timerOffLowPos on off) with opt := OptRec.empty }) ∧
    (∀ f : Field, f ≠ .dkOnTimer → f ≠ .dkOffTimer → optGet s.opt f ≠ .absent →
      exec (.tpack rd) s = .next (s.withError 7#8))

/-! ## The appliance encoders (42_daikin, 43_mitsubishi) -/

/-- R121: the last byte of every checksummed packet is the checksum of all bytes before it, for every configuration and record. -/
def Obligations.ChecksumClosesEveryPacket : Prop :=
  ∀ (cfg : Cfg) (d : DaikinRec) (m : MitsuRec), ∀ p ∈ [daikinP1 cfg d, daikinP2 cfg d, mitsuEncode cfg m],
    p[p.length - 1]? = some (checksum p 0 (p.length - 1))

/-- R143: Daikin packet 1 is 20 bytes: the header, the fan-yonder byte at offset 12, the reserved bytes, the checksum. -/
def Obligations.DaikinPacket1Layout : Prop :=
  ∀ (cfg : Cfg) (r : DaikinRec),
    (daikinP1 cfg r).length = 20 ∧ (daikinP1 cfg r).take 12 = cfg.daikinP1Hdr.toList ∧
    (daikinP1 cfg r)[12]? = some r.fanYonder ∧ ((daikinP1 cfg r).drop 13).take 6 = cfg.daikinP1Rsv.toList ∧
    (daikinP1 cfg r)[19]? = some (checksum (daikinP1 cfg r) 0 19)

/-- R144, R147 to R154: Daikin packet 2 is 19 bytes, and each byte but byte 5 and byte 6 is the fields its rule names, each at its
bit position; bytes 7, 16 and 17 of every encode are CFG's, whatever the options. -/
def Obligations.DaikinPacket2Layout : Prop :=
  ∀ (cfg : Cfg) (r : DaikinRec),
    (daikinP2 cfg r).length = 19 ∧ (daikinP2 cfg r).take 5 = cfg.daikinP2Hdr.toList ∧
    (daikinP2 cfg r)[7]? = some r.padding3 ∧
    (daikinP2 cfg r)[8]? = some ((r.fanSpeed.setWidth 8 <<< 4) ||| r.vaneDirection.setWidth 8) ∧
    (daikinP2 cfg r)[9]? = some ((r.leftRight.setWidth 8 <<< 4) ||| r.padding4.setWidth 8) ∧
    ((daikinP2 cfg r).drop 10).take 3 = timerPack cfg.timerOffLowPos r.onTimer r.offTimer ∧
    (daikinP2 cfg r)[13]? = some ((r.padding5.setWidth 8 <<< 5) ||| (r.silent.setWidth 8 <<< 4) |||
      (r.padding6.setWidth 8 <<< 1) ||| r.powerfulMode.setWidth 8) ∧
    (daikinP2 cfg r)[14]? = some ((r.intelligentOn.setWidth 8 <<< 7) ||| r.padding7.setWidth 8) ∧
    (daikinP2 cfg r)[15]? = some 195#8 ∧ (daikinP2 cfg r)[16]? = some r.b16 ∧ (daikinP2 cfg r)[17]? = some r.b17 ∧
    (daikinP2 cfg r)[18]? = some (checksum (daikinP2 cfg r) 0 18) ∧
    ∀ o : OptRec, (daikinP2 cfg (daikinMerge cfg.daikinDef o))[7]? = some cfg.daikinDef.padding3 ∧
      (daikinP2 cfg (daikinMerge cfg.daikinDef o))[16]? = some cfg.daikinDef.b16 ∧
      (daikinP2 cfg (daikinMerge cfg.daikinDef o))[17]? = some cfg.daikinDef.b17

/-- Byte 5 of Daikin packet 2, its seven fields high-to-low (R145, whose widths the spec derives from the eight-bit sum). -/
def Obligations.DaikinPacket2FlagsByte : Prop :=
  ∀ (cfg : Cfg) (r : DaikinRec),
    (daikinP2 cfg r)[5]? = some ((r.padding1.setWidth 8 <<< 7) ||| (r.mode.setWidth 8 <<< 4) ||| (r.padding2.setWidth 8 <<< 3) |||
      (r.offTimerSet.setWidth 8 <<< 2) ||| (r.onTimerSet.setWidth 8 <<< 1) ||| r.power.setWidth 8)

/-- R146: byte 6 of Daikin packet 2 is twice the supplied temperature, for every T from 0 to 127, and the default, as stored, when
none is supplied. -/
def Obligations.DaikinTemperatureIsDoubled : Prop :=
  ∀ (cfg : Cfg) (o : OptRec),
    (∀ t : Nat, t ≤ 127 → optGet o .dkTemperature = .num t →
      ∃ b : Byte, (daikinP2 cfg (daikinMerge cfg.daikinDef o))[6]? = some b ∧ b.toNat = 2 * t) ∧
    (optGet o .dkTemperature = .absent →
      (daikinP2 cfg (daikinMerge cfg.daikinDef o))[6]? = some cfg.daikinDef.temperatureWire)

/-- R141: every Daikin option field of the merged record is the supplied value when present (the temperature doubled) and the default
when absent, and the paddings and constants are those of the configuration. -/
def Obligations.DaikinMergeOverlaysTheDefaults : Prop :=
  ∀ (d : DaikinRec) (o : OptRec),
    (optGet o .dkTemperature = .absent → (daikinMerge d o).temperatureWire = d.temperatureWire) ∧
    (∀ t : Nat, t ≤ 127 → optGet o .dkTemperature = .num t → (daikinMerge d o).temperatureWire.toNat = 2 * t) ∧
    MergedBits (optGet o .dkPower) d.power (daikinMerge d o).power ∧
    MergedBits (optGet o .dkMode) d.mode (daikinMerge d o).mode ∧
    MergedBits (optGet o .dkFanSpeed) d.fanSpeed (daikinMerge d o).fanSpeed ∧
    MergedBits (optGet o .dkVaneDirection) d.vaneDirection (daikinMerge d o).vaneDirection ∧
    MergedBits (optGet o .dkLeftRight) d.leftRight (daikinMerge d o).leftRight ∧
    MergedBits (optGet o .dkSilent) d.silent (daikinMerge d o).silent ∧
    MergedBits (optGet o .dkPowerfulMode) d.powerfulMode (daikinMerge d o).powerfulMode ∧
    MergedBits (optGet o .dkIntelligentOn) d.intelligentOn (daikinMerge d o).intelligentOn ∧
    MergedBits (optGet o .dkOnTimerSet) d.onTimerSet (daikinMerge d o).onTimerSet ∧
    MergedBits (optGet o .dkOffTimerSet) d.offTimerSet (daikinMerge d o).offTimerSet ∧
    MergedTimer (optGet o .dkOnTimer) d.onTimer (daikinMerge d o).onTimer ∧
    MergedTimer (optGet o .dkOffTimer) d.offTimer (daikinMerge d o).offTimer ∧
    MergedBits (optGet o .dkFanYonder) d.fanYonder (daikinMerge d o).fanYonder ∧
    (daikinMerge d o).padding1 = d.padding1 ∧ (daikinMerge d o).padding2 = d.padding2 ∧
    (daikinMerge d o).padding3 = d.padding3 ∧ (daikinMerge d o).padding4 = d.padding4 ∧
    (daikinMerge d o).padding5 = d.padding5 ∧ (daikinMerge d o).padding6 = d.padding6 ∧
    (daikinMerge d o).padding7 = d.padding7 ∧ (daikinMerge d o).b16 = d.b16 ∧ (daikinMerge d o).b17 = d.b17

/-- R140: DAIKIN leaves packet 1 in B[rd] and packet 2 in B[rd+1], made from the merged record, and empties OPT; B15 ends with E_RANGE
(5) whatever OPT holds, and otherwise a Mitsubishi field that is present with E_OPTION (7). -/
def Obligations.DaikinLeavesBothPackets : Prop :=
  Encodes 0x20#8 0x000FFFFF#32 (fun w => .daikin (rdOf w)) ∧
  ∀ (s : State) (rd : Reg),
    (∀ rd' : Reg, rd'.val = rd.val + 1 → (∀ f : Field, isMitsuField f = true → optGet s.opt f = .absent) →
      exec (.daikin rd) s = .next
        { (s.withResult rd (daikinP1 Config.cfg (daikinMerge Config.cfg.daikinDef s.opt))).withResult rd'
            (daikinP2 Config.cfg (daikinMerge Config.cfg.daikinDef s.opt)) with opt := OptRec.empty }) ∧
    (rd.val = 15 → exec (.daikin rd) s = .next (s.withError 5#8)) ∧
    (∀ f : Field, rd.val ≠ 15 → isMitsuField f = true → optGet s.opt f ≠ .absent →
      exec (.daikin rd) s = .next (s.withError 7#8))

/-- R172 to R181: the Mitsubishi packet is 14 bytes, and each byte is the fields its rule names, each at its bit position. -/
def Obligations.MitsubishiPacketLayout : Prop :=
  ∀ (cfg : Cfg) (r : MitsuRec),
    (mitsuEncode cfg r).length = 14 ∧ (mitsuEncode cfg r).take 5 = cfg.mitsuHdr.toList ∧
    (mitsuEncode cfg r)[5]? = some ((r.padding1.setWidth 8 <<< 5) ||| (r.timerMode.setWidth 8 <<< 3) |||
      (r.on.setWidth 8 <<< 2) ||| r.padding2.setWidth 8) ∧
    (mitsuEncode cfg r)[6]? = some ((r.padding3.setWidth 8 <<< 4) ||| (r.dryIntensity.setWidth 8 <<< 2) ||| r.mode.setWidth 8) ∧
    (mitsuEncode cfg r)[7]? = some ((r.padding4.setWidth 8 <<< 4) ||| r.temperatureWire.setWidth 8) ∧
    (mitsuEncode cfg r)[8]? = some ((r.isTimerCommand.setWidth 8 <<< 6) ||| (r.windDirection.setWidth 8 <<< 3) |||
      r.windSpeed.setWidth 8) ∧
    (mitsuEncode cfg r)[9]? = some r.timerValue ∧ (mitsuEncode cfg r)[10]? = some r.padding5 ∧
    (mitsuEncode cfg r)[11]? = some ((r.padding6.setWidth 8 <<< 6) ||| (r.coolFeeling.setWidth 8 <<< 5) |||
      r.padding7.setWidth 8) ∧
    (mitsuEncode cfg r)[12]? = some r.padding8 ∧ (mitsuEncode cfg r)[13]? = some (checksum (mitsuEncode cfg r) 0 13)

/-- R171, R182: the wire temperature is 31 - T for every T from 16 to 31, and the default, as stored, when none is supplied, and OPTSET
refuses any other T with E_OPTION (7); every other Mitsubishi option field is the supplied value when present and the default when
absent, and the paddings are those of the configuration. -/
def Obligations.MitsubishiMergeOverlaysTheDefaults : Prop :=
  ∀ (d : MitsuRec) (o : OptRec),
    (∀ t : Nat, 16 ≤ t → t ≤ 31 → optGet o .miTemperature = .num t → (mitsuMerge d o).temperatureWire.toNat = 31 - t) ∧
    (optGet o .miTemperature = .absent → (mitsuMerge d o).temperatureWire = d.temperatureWire) ∧
    MergedBits (optGet o .miTimerMode) d.timerMode (mitsuMerge d o).timerMode ∧
    MergedBits (optGet o .miOn) d.on (mitsuMerge d o).on ∧
    MergedBits (optGet o .miDryIntensity) d.dryIntensity (mitsuMerge d o).dryIntensity ∧
    MergedBits (optGet o .miMode) d.mode (mitsuMerge d o).mode ∧
    MergedBits (optGet o .miIsTimerCommand) d.isTimerCommand (mitsuMerge d o).isTimerCommand ∧
    MergedBits (optGet o .miWindDirection) d.windDirection (mitsuMerge d o).windDirection ∧
    MergedBits (optGet o .miWindSpeed) d.windSpeed (mitsuMerge d o).windSpeed ∧
    MergedBits (optGet o .miTimerValue) d.timerValue (mitsuMerge d o).timerValue ∧
    MergedBits (optGet o .miCoolFeeling) d.coolFeeling (mitsuMerge d o).coolFeeling ∧
    (mitsuMerge d o).padding1 = d.padding1 ∧ (mitsuMerge d o).padding2 = d.padding2 ∧
    (mitsuMerge d o).padding3 = d.padding3 ∧ (mitsuMerge d o).padding4 = d.padding4 ∧
    (mitsuMerge d o).padding5 = d.padding5 ∧ (mitsuMerge d o).padding6 = d.padding6 ∧
    (mitsuMerge d o).padding7 = d.padding7 ∧ (mitsuMerge d o).padding8 = d.padding8 ∧
    ∀ (v : BitVec 16) (s : State), v.toNat < 16 ∨ 31 < v.toNat → exec (.optset 0x14#8 v) s = .next (s.withError 7#8)

/-- R170: MITSU leaves the packet of the merged record in B[rd] and empties OPT; a Daikin field that is present ends it with
E_OPTION (7). -/
def Obligations.MitsuLeavesThePacket : Prop :=
  Encodes 0x30#8 0x000FFFFF#32 (fun w => .mitsu (rdOf w)) ∧
  ∀ (s : State) (rd : Reg),
    ((∀ f : Field, isDaikinField f = true → optGet s.opt f = .absent) →
      exec (.mitsu rd) s = .next
        { s.withResult rd (mitsuEncode Config.cfg (mitsuMerge Config.cfg.mitsuDef s.opt)) with opt := OptRec.empty }) ∧
    (∀ f : Field, isDaikinField f = true → optGet s.opt f ≠ .absent → exec (.mitsu rd) s = .next (s.withError 7#8))

/-! ## Daiko lights (44_daiko_lights) -/

/-- R190, R192: a frame is the header 85 FB and, for each payload byte, the byte with the channel in its top bit and 255 minus it, which
is its bitwise complement; the header bytes are no such pair. -/
def Obligations.DaikoFrameIsHeaderAndPairs : Prop :=
  (∀ (ch : BitVec 1) (p q : Byte),
    daikoFrame ch [p] = [0x85#8, 0xFB#8, (ch.setWidth 8 <<< 7) ||| p, 0xFF#8 - ((ch.setWidth 8 <<< 7) ||| p)] ∧
    daikoFrame ch [p, q] = [0x85#8, 0xFB#8, (ch.setWidth 8 <<< 7) ||| p, 0xFF#8 - ((ch.setWidth 8 <<< 7) ||| p),
      (ch.setWidth 8 <<< 7) ||| q, 0xFF#8 - ((ch.setWidth 8 <<< 7) ||| q)]) ∧
  (∀ b : Byte, 0xFF#8 - b = ~~~ b ∧ b.toNat + (0xFF#8 - b).toNat = 255) ∧ 0xFF#8 - 0x85#8 ≠ 0xFB#8

/-- R191: the channel is OR-ed into the top bit: it is that bit of a payload byte below 128, and a payload byte of 128 or more gives the
same byte on both channels. -/
def Obligations.DaikoChannelIsTheTopBit : Prop :=
  ∀ (ch : BitVec 1) (p : Byte),
    (p.toNat < 128 → (withChannel ch p).toNat = 128 * ch.toNat + p.toNat) ∧
    (128 ≤ p.toNat → withChannel ch p = p)

/-- R196 to R200: each fixed Daiko command leaves the 4-byte frame of its configured code, from every state. -/
def Obligations.FixedDaikoCommandsLeaveTheirFrames : Prop :=
  Encodes 0x40#8 0x0000FFFF#32 (fun w => .dkoff (rdOf w) (chOf w)) ∧
  Encodes 0x41#8 0x0000FFFF#32 (fun w => .dktog (rdOf w) (chOf w)) ∧
  Encodes 0x42#8 0x0000FFFF#32 (fun w => .dkwht (rdOf w) (chOf w)) ∧
  Encodes 0x43#8 0x0000FFFF#32 (fun w => .dkful (rdOf w) (chOf w)) ∧
  Encodes 0x44#8 0x0000FFFF#32 (fun w => .dkwrm (rdOf w) (chOf w)) ∧
  ∀ (s : State) (rd : Reg) (ch : BitVec 1),
    exec (.dkoff rd ch) s = .next (s.withResult rd (daikoFrame ch [Config.cfg.daikoCodeOff])) ∧
    exec (.dktog rd ch) s = .next (s.withResult rd (daikoFrame ch [Config.cfg.daikoCodeToggle])) ∧
    exec (.dkwht rd ch) s = .next (s.withResult rd (daikoFrame ch [Config.cfg.daikoCodeWhite])) ∧
    exec (.dkful rd ch) s = .next (s.withResult rd (daikoFrame ch [Config.cfg.daikoCodeFull])) ∧
    exec (.dkwrm rd ch) s = .next (s.withResult rd (daikoFrame ch [Config.cfg.daikoCodeWarm]))

/-- R194, R201: DKNGT leaves the 4-byte frame of the night code, i + 5 up to intensity 7 and i + 8 above it, for every operand value; the
codes 13, 14 and 15 are never produced. -/
def Obligations.DkngtLeavesTheNightCode : Prop :=
  Encodes 0x45#8 0x0000FFF0#32 (fun w => .dkngt (rdOf w) (chOf w) (w.extractLsb' 0 4).toNat) ∧
  (∀ (s : State) (rd : Reg) (ch : BitVec 1) (i : Nat) (code : Byte), i < 16 →
    code.toNat = (if i ≤ 7 then i + 5 else i + 8) →
    exec (.dkngt rd ch i) s = .next (s.withResult rd (daikoFrame ch [code]))) ∧
  ∀ i : Nat, nightCode i ≠ 13 ∧ nightCode i ≠ 14 ∧ nightCode i ≠ 15

/-- R195, R202: DKON leaves the 6-byte frame of warmth + 28 and brightness + 18, for every pair of 7-bit operands. -/
def Obligations.DkonLeavesWarmthAndBrightness : Prop :=
  Encodes 0x46#8 0x00008080#32 (fun w => .dkon (rdOf w) (chOf w) (w.extractLsb' 8 7).toNat (w.extractLsb' 0 7).toNat) ∧
  ∀ (s : State) (rd : Reg) (ch : BitVec 1) (warmth brightness : Nat) (w b : Byte), warmth < 128 → brightness < 128 →
    w.toNat = warmth + 28 → b.toNat = brightness + 18 →
    exec (.dkon rd ch warmth brightness) s = .next (s.withResult rd (daikoFrame ch [w, b]))

/-! ## Framing (45_framing) -/

/-- R212: a tag is accepted exactly when it is one of -1, 1 to 13, 15, 16, 17, 239, 240, 241. -/
def Obligations.TagCheckIsMembership : Prop :=
  ∀ tag : Int, isEncoding tag = true ↔
    tag = -1 ∨ (1 ≤ tag ∧ tag ≤ 13) ∨ (15 ≤ tag ∧ tag ≤ 17) ∨ (239 ≤ tag ∧ tag ≤ 241)

/-- R213, R220: WENC1 leaves the tag modulo 256 as one byte before the payload; E_UNWRITTEN (4), then E_UNKNOWN_ENCODING (2), then
E_CAPACITY (6). The source may be the destination. -/
def Obligations.Wenc1PrefixesOneTagByte : Prop :=
  Encodes 0x50#8 0#32 (fun w => .wenc1 (rdOf w) (rsOf w) (immOf w).toInt) ∧
  ∀ (s : State) (rd rs : Reg) (tag : Int),
    (∀ (p : Buffer) (b : Byte), s.buf[rs] = some p → isEncoding tag = true → p.length + 1 ≤ 65535 → (b.toNat : Int) = tag % 256 →
      exec (.wenc1 rd rs tag) s = .next (s.withResult rd (b :: p))) ∧
    (s.buf[rs] = none → exec (.wenc1 rd rs tag) s = .next (s.withError 4#8)) ∧
    (∀ p, s.buf[rs] = some p → isEncoding tag = false → exec (.wenc1 rd rs tag) s = .next (s.withError 2#8)) ∧
    (∀ p, s.buf[rs] = some p → isEncoding tag = true → 65535 < p.length + 1 →
      exec (.wenc1 rd rs tag) s = .next (s.withError 6#8))

/-- R214, R221: WENC4 leaves the tag as a signed 32-bit little-endian word before the payload; the causes of WENC1 in the same order. -/
def Obligations.Wenc4PrefixesATagWord : Prop :=
  Encodes 0x51#8 0#32 (fun w => .wenc4 (rdOf w) (rsOf w) (immOf w).toInt) ∧
  ∀ (s : State) (rd rs : Reg) (tag : Int),
    (∀ (p : Buffer) (v : Word), s.buf[rs] = some p → isEncoding tag = true → p.length + 4 ≤ 65535 → v.toInt = tag →
      exec (.wenc4 rd rs tag) s = .next (s.withResult rd
        ([v.extractLsb' 0 8, v.extractLsb' 8 8, v.extractLsb' 16 8, v.extractLsb' 24 8] ++ p))) ∧
    (s.buf[rs] = none → exec (.wenc4 rd rs tag) s = .next (s.withError 4#8)) ∧
    (∀ p, s.buf[rs] = some p → isEncoding tag = false → exec (.wenc4 rd rs tag) s = .next (s.withError 2#8)) ∧
    (∀ p, s.buf[rs] = some p → isEncoding tag = true → 65535 < p.length + 4 →
      exec (.wenc4 rd rs tag) s = .next (s.withError 6#8))

/-- A bundle of k sub-commands is the byte k, then for each its length byte and its bytes, in order; its length is 1 + k + the sum
of theirs (R216). The length holds of every list; for more than 255 sub-commands, or one longer than 255 bytes, R216 defines no bundle,
and that the function gives one of that length there is the model's choice (log 22). -/
def Obligations.BundleIsCountedAndLengthPrefixed : Prop :=
  (∀ cmds : List Buffer, (bundle cmds).length = 1 + cmds.length + (cmds.map List.length).sum) ∧
  ∀ cmds : List Buffer, cmds.length ≤ 255 → (∀ c ∈ cmds, c.length ≤ 255) →
    ∃ (k : Byte) (prefixes : List Byte), k.toNat = cmds.length ∧ prefixes.map BitVec.toNat = cmds.map List.length ∧
      bundle cmds = k :: (List.zipWith (fun n c => n :: c) prefixes cmds).flatten

/-- Sub-command j of a bundle (counting from 0) stands unchanged at offset 2 + j + the lengths of the earlier ones, its length byte
before it (R225, which the spec derives from R216). Only sub-command j is bounded: with another one longer than 255 bytes, or more than
255 of them, R216 defines no bundle, and what the function gives there is the model's choice (log 22). -/
def Obligations.BundleKeepsEachPayload : Prop :=
  ∀ (cmds : List Buffer) (j : Nat) (c : Buffer), cmds[j]? = some c → c.length ≤ 255 →
    ((bundle cmds).drop (2 + j + ((cmds.take j).map List.length).sum)).take c.length = c ∧
    ∃ n : Byte, (bundle cmds)[1 + j + ((cmds.take j).map List.length).sum]? = some n ∧ n.toNat = c.length

/-- R217, R222: BUNDLE leaves the bundle of n consecutive registers in ascending order; E_RANGE (5) past B15, then E_UNWRITTEN (4) for
an invalid one, then E_CMD_TOO_LONG (3) for one over 255 bytes. The destination may be among the sources. -/
def Obligations.BundleTakesConsecutiveRegisters : Prop :=
  Encodes 0x52#8 0x0000FFE0#32 (fun w => .bundle (rdOf w) (rsOf w) (w.extractLsb' 0 5).toNat) ∧
  ∀ (s : State) (rd rs : Reg) (n : Nat),
    (∀ cmds : List Buffer, rs.val + n ≤ 16 → cmds.length = n → (∀ k, k < n → s.buf[rs.val + k]? = some cmds[k]?) →
      (∀ c ∈ cmds, c.length ≤ 255) → exec (.bundle rd rs n) s = .next (s.withResult rd (bundle cmds))) ∧
    (16 < rs.val + n → exec (.bundle rd rs n) s = .next (s.withError 5#8)) ∧
    (∀ r : Reg, rs.val + n ≤ 16 → rs.val ≤ r.val → r.val < rs.val + n → s.buf[r] = none →
      exec (.bundle rd rs n) s = .next (s.withError 4#8)) ∧
    (∀ (r : Reg) (c : Buffer), rs.val + n ≤ 16 → (∀ q : Reg, rs.val ≤ q.val → q.val < rs.val + n → s.buf[q] ≠ none) →
      rs.val ≤ r.val → r.val < rs.val + n → s.buf[r] = some c → 255 < c.length →
      exec (.bundle rd rs n) s = .next (s.withError 3#8))

/-- R219, R223: DELAY leaves the three bytes EF, low byte, high byte of the duration, from every state. -/
def Obligations.DelayLeavesTheRecord : Prop :=
  Encodes 0x53#8 0x000F0000#32 (fun w => .delay (rdOf w) (immOf w)) ∧
  ∀ (s : State) (rd : Reg) (ms : BitVec 16) (lo hi : Byte), lo.toNat = ms.toNat % 256 → hi.toNat = ms.toNat / 256 →
    exec (.delay rd ms) s = .next (s.withResult rd [0xEF#8, lo, hi])

/-- R224: EMIT adds one entry, the topic and a copy of the buffer, at the end of SINK, and leaves every register; E_UNWRITTEN (4) for an
invalid one. -/
def Obligations.EmitAddsOneSinkEntry : Prop :=
  Encodes 0x70#8 0x00F00000#32 (fun w => .emit (rsOf w) (immOf w)) ∧
  ∀ (s : State) (rs : Reg) (topic : BitVec 16),
    (∀ b, s.buf[rs] = some b →
      exec (.emit rs topic) s = .next { s with sink := s.sink ++ [⟨topic, b⟩], err := 0#8 }) ∧
    (s.buf[rs] = none → exec (.emit rs topic) s = .next (s.withError 4#8))

/-! ## Pulse-timing expansion (46_pulse_expansion) -/

/-- R241, R244: word k of the expansion, for a payload of L bytes: 240, the frequency, 3502, 1700, then for each bit, bytes ascending and
bit 0 first, the mark 502 and the space 1244 for a one or 400 for a zero, and one trailing 502. -/
def Obligations.PulseWordsInClosedForm : Prop :=
  ∀ (freq : Word) (p : Buffer),
    (panWords freq p)[0]? = some 240#32 ∧ (panWords freq p)[1]? = some freq ∧ (panWords freq p)[2]? = some 3502#32 ∧
    (panWords freq p)[3]? = some 1700#32 ∧
    (∀ (i j : Nat) (b : Byte), p[i]? = some b → j < 8 →
      (panWords freq p)[4 + 16 * i + 2 * j]? = some 502#32 ∧
      (panWords freq p)[4 + 16 * i + 2 * j + 1]? = some (if b.getLsbD j then 1244#32 else 400#32)) ∧
    (panWords freq p)[16 * p.length + 4]? = some 502#32 ∧ (panWords freq p).length = 16 * p.length + 5

/-- Sizes and the total duration (R245, R247, which the spec derives from R241): 64 L + 20 bytes, and all durations together last
3502 + 1700 + 502 + 502 * 8 L + 1244 for every one bit + 400 for every zero bit. -/
def Obligations.PulseSizesAndTotalDuration : Prop :=
  ∀ (freq : Word) (p : Buffer) (ones : Nat),
    ones = (p.map fun b => ((List.range 8).filter fun j => b.getLsbD j).length).sum →
    (panIntervals freq p).length = 64 * p.length + 20 ∧
    (((panWords freq p).drop 2).map BitVec.toNat).sum =
      3502 + 1700 + 502 + 8 * p.length * 502 + 1244 * ones + 400 * (8 * p.length - ones)

/-- The expansion is already tagged: it has the form of a 4-byte tag raw before the rest of its words (R243, which the spec derives). -/
def Obligations.PulsePayloadIsTaggedRaw : Prop :=
  ∀ (freq : Word) (p : Buffer), panIntervals freq p = withEncoding4 (encodingValue .raw) (toBuffer ((panWords freq p).drop 1))

/-- R248: PANINT leaves the expansion of the source, at most 1023 bytes; E_UNWRITTEN (4), then E_CAPACITY (6) from 1024 bytes on. -/
def Obligations.PanintLeavesTheExpansion : Prop :=
  Encodes 0x60#8 0x0000FFFF#32 (fun w => .panint (rdOf w) (rsOf w)) ∧
  ∀ (s : State) (rd rs : Reg),
    (∀ p, s.buf[rs] = some p → p.length < 1024 →
      exec (.panint rd rs) s = .next (s.withResult rd (panIntervals Config.cfg.panFreq p))) ∧
    (s.buf[rs] = none → exec (.panint rd rs) s = .next (s.withError 4#8)) ∧
    (∀ p, s.buf[rs] = some p → 1024 ≤ p.length → exec (.panint rd rs) s = .next (s.withError 6#8))
end

