-- ==== Sys2Proof/Laws/Decode.lean ====
section
/-! SUPPORT. The small facts about a command word: its three parts, its fields read from those parts, and the decoder at each opcode. -/

namespace Sys2Proof

/-! A word is its opcode byte, its middle byte and its immediate -/

@[simp] theorem opcodeOf_wordOf (op mid : BitVec 8) (imm : BitVec 16) : opcodeOf (wordOf op mid imm) = op := by
  apply BitVec.eq_of_getLsbD_eq
  intro i hi
  unfold opcodeOf wordOf
  rw [BitVec.getLsbD_extractLsb', BitVec.getLsbD_append, BitVec.getLsbD_append]
  simp [hi, show ¬ (24 + i < 16) by omega, show ¬ (24 + i - 16 < 8) by omega, show 24 + i - 16 - 8 = i by omega]

@[simp] theorem fidOf_wordOf (op mid : BitVec 8) (imm : BitVec 16) : fidOf (wordOf op mid imm) = mid := by
  apply BitVec.eq_of_getLsbD_eq
  intro i hi
  unfold fidOf wordOf
  rw [BitVec.getLsbD_extractLsb', BitVec.getLsbD_append, BitVec.getLsbD_append]
  simp [hi, show ¬ (16 + i < 16) by omega, show 16 + i - 16 = i by omega]

@[simp] theorem immOf_wordOf (op mid : BitVec 8) (imm : BitVec 16) : immOf (wordOf op mid imm) = imm := by
  apply BitVec.eq_of_getLsbD_eq
  intro i hi
  unfold immOf wordOf
  rw [BitVec.getLsbD_extractLsb', BitVec.getLsbD_append, BitVec.getLsbD_append]
  simp [hi]

/-- Every word is made of its three parts. -/
theorem wordOf_eta (w : Word) : wordOf (opcodeOf w) (fidOf w) (immOf w) = w := by
  apply BitVec.eq_of_getLsbD_eq
  intro i hi
  unfold wordOf
  rw [BitVec.getLsbD_append, BitVec.getLsbD_append]
  unfold opcodeOf fidOf immOf
  simp only [BitVec.getLsbD_extractLsb']
  by_cases h1 : i < 16
  · simp [h1]
  · by_cases h2 : i - 16 < 8
    · simp [h1, h2, show 16 + (i - 16) = i by omega]
    · simp [h1, h2, show i - 16 - 8 < 8 by omega, show 24 + (i - 16 - 8) = i by omega]

/-- Two words are equal when their three parts are. -/
theorem wordOf_inj {op op' mid mid' : BitVec 8} {imm imm' : BitVec 16} :
    wordOf op mid imm = wordOf op' mid' imm' ↔ op = op' ∧ mid = mid' ∧ imm = imm' := by
  constructor
  · intro h
    exact ⟨by simpa using congrArg opcodeOf h, by simpa using congrArg fidOf h, by simpa using congrArg immOf h⟩
  · rintro ⟨rfl, rfl, rfl⟩
    rfl

/-- Masking a word masks its three parts. -/
theorem wordOf_and (op op' mid mid' : BitVec 8) (imm imm' : BitVec 16) :
    wordOf op mid imm &&& wordOf op' mid' imm' = wordOf (op &&& op') (mid &&& mid') (imm &&& imm') := by
  apply BitVec.eq_of_getLsbD_eq
  intro i hi
  unfold wordOf
  rw [BitVec.getLsbD_and, BitVec.getLsbD_append, BitVec.getLsbD_append, BitVec.getLsbD_append, BitVec.getLsbD_append,
    BitVec.getLsbD_append, BitVec.getLsbD_append]
  by_cases h1 : i < 16
  · simp [h1]
  · by_cases h2 : i - 16 < 8 <;> simp [h1, h2]

/-! The fields are slices of the parts -/

/-- A slice of a slice of a word. -/
theorem extract_extract (w : Word) (a m b n : Nat) (h : b + n ≤ m) :
    (w.extractLsb' a m).extractLsb' b n = w.extractLsb' (a + b) n := by
  apply BitVec.eq_of_getLsbD_eq
  intro i hi
  simp only [BitVec.getLsbD_extractLsb', hi, show b + i < m by omega, Nat.add_assoc, decide_true, Bool.true_and]

theorem rdOf_eq (w : Word) : rdOf w = ((fidOf w).extractLsb' 4 4).toFin := by
  rw [rdOf, fidOf, extract_extract w 16 8 4 4 (by omega)]

theorem rsOf_eq (w : Word) : rsOf w = ((fidOf w).extractLsb' 0 4).toFin := by
  rw [rsOf, fidOf, extract_extract w 16 8 0 4 (by omega)]

theorem chOf_eq (w : Word) : chOf w = (fidOf w).extractLsb' 0 1 := by
  rw [chOf, fidOf, extract_extract w 16 8 0 1 (by omega)]

theorem extract_low_eq (w : Word) (b n : Nat) (h : b + n ≤ 16) : w.extractLsb' b n = (immOf w).extractLsb' b n := by
  rw [immOf, extract_extract w 0 16 b n h, Nat.zero_add]

@[simp] theorem midRegs_high : ∀ rd rs : Reg, ((midRegs rd rs).extractLsb' 4 4).toFin = rd := by decide

@[simp] theorem midRegs_low : ∀ rd rs : Reg, ((midRegs rd rs).extractLsb' 0 4).toFin = rs := by decide

@[simp] theorem midDaiko_high : ∀ (rd : Reg) (ch : BitVec 1), ((midDaiko rd ch).extractLsb' 4 4).toFin = rd := by decide

@[simp] theorem midDaiko_low : ∀ (rd : Reg) (ch : BitVec 1), (midDaiko rd ch).extractLsb' 0 1 = ch := by decide

theorem midRegs_rd_zero : ∀ rd : Reg, midRegs rd 0 &&& 0x0F#8 = 0#8 := by decide

theorem midRegs_rs_zero : ∀ rs : Reg, midRegs 0 rs &&& 0xF0#8 = 0#8 := by decide

/-! The zero bits -/

theorem requireZero_ok_iff {w z : Word} {i j : Instr} : requireZero w z i = .ok j ↔ w &&& z = 0#32 ∧ j = i := by
  unfold requireZero
  split <;> simp_all [eq_comm]

/-- The zero bits below the opcode are those of the middle byte and those of the immediate. -/
theorem and_eq_zero_iff {w z : Word} (hz : opcodeOf z = 0#8) :
    w &&& z = 0#32 ↔ fidOf w &&& fidOf z = 0#8 ∧ immOf w &&& immOf z = 0#16 := by
  have h0 : (0#32 : Word) = wordOf 0#8 0#8 0#16 := by decide
  conv_lhs => rw [← wordOf_eta w, ← wordOf_eta z, wordOf_and, h0, wordOf_inj, hz]
  simp

/-! The decoder at each opcode -/

theorem decode_bclr {w : Word} (h : opcodeOf w = 0x01#8) : decode w = requireZero w 0x000FFFFF#32 (.bclr (rdOf w)) := by
  unfold decode
  rw [h]
  rfl

theorem decode_appb {w : Word} (h : opcodeOf w = 0x02#8) : decode w = requireZero w 0x000FFF00#32 (.appb (rdOf w) (w.extractLsb' 0 8)) := by
  unfold decode
  rw [h]
  rfl

theorem decode_appw {w : Word} (h : opcodeOf w = 0x03#8) : decode w = requireZero w 0x000F0000#32 (.appw (rdOf w) (immOf w)) := by
  unfold decode
  rw [h]
  rfl

theorem decode_optclr {w : Word} (h : opcodeOf w = 0x08#8) : decode w = requireZero w 0x00FFFFFF#32 .optclr := by
  unfold decode
  rw [h]
  rfl

theorem decode_optset {w : Word} (h : opcodeOf w = 0x09#8) : decode w = requireZero w 0x00000000#32 (.optset (fidOf w) (immOf w)) := by
  unfold decode
  rw [h]
  rfl

theorem decode_optnul {w : Word} (h : opcodeOf w = 0x0A#8) : decode w = requireZero w 0x0000FFFF#32 (.optnul (fidOf w)) := by
  unfold decode
  rw [h]
  rfl

theorem decode_cksum {w : Word} (h : opcodeOf w = 0x10#8) :
    decode w = requireZero w 0x00000000#32 (.cksum (rdOf w) (rsOf w) (w.extractLsb' 8 8).toNat (w.extractLsb' 0 8).toNat) := by
  unfold decode
  rw [h]
  rfl

theorem decode_tpack {w : Word} (h : opcodeOf w = 0x11#8) : decode w = requireZero w 0x000FFFFF#32 (.tpack (rdOf w)) := by
  unfold decode
  rw [h]
  rfl

theorem decode_daikin {w : Word} (h : opcodeOf w = 0x20#8) : decode w = requireZero w 0x000FFFFF#32 (.daikin (rdOf w)) := by
  unfold decode
  rw [h]
  rfl

theorem decode_mitsu {w : Word} (h : opcodeOf w = 0x30#8) : decode w = requireZero w 0x000FFFFF#32 (.mitsu (rdOf w)) := by
  unfold decode
  rw [h]
  rfl

theorem decode_dkoff {w : Word} (h : opcodeOf w = 0x40#8) : decode w = requireZero w 0x0000FFFF#32 (.dkoff (rdOf w) (chOf w)) := by
  unfold decode
  rw [h]
  rfl

theorem decode_dktog {w : Word} (h : opcodeOf w = 0x41#8) : decode w = requireZero w 0x0000FFFF#32 (.dktog (rdOf w) (chOf w)) := by
  unfold decode
  rw [h]
  rfl

theorem decode_dkwht {w : Word} (h : opcodeOf w = 0x42#8) : decode w = requireZero w 0x0000FFFF#32 (.dkwht (rdOf w) (chOf w)) := by
  unfold decode
  rw [h]
  rfl

theorem decode_dkful {w : Word} (h : opcodeOf w = 0x43#8) : decode w = requireZero w 0x0000FFFF#32 (.dkful (rdOf w) (chOf w)) := by
  unfold decode
  rw [h]
  rfl

theorem decode_dkwrm {w : Word} (h : opcodeOf w = 0x44#8) : decode w = requireZero w 0x0000FFFF#32 (.dkwrm (rdOf w) (chOf w)) := by
  unfold decode
  rw [h]
  rfl

theorem decode_dkngt {w : Word} (h : opcodeOf w = 0x45#8) :
    decode w = requireZero w 0x0000FFF0#32 (.dkngt (rdOf w) (chOf w) (w.extractLsb' 0 4).toNat) := by
  unfold decode
  rw [h]
  rfl

theorem decode_dkon {w : Word} (h : opcodeOf w = 0x46#8) :
    decode w = requireZero w 0x00008080#32 (.dkon (rdOf w) (chOf w) (w.extractLsb' 8 7).toNat (w.extractLsb' 0 7).toNat) := by
  unfold decode
  rw [h]
  rfl

theorem decode_wenc1 {w : Word} (h : opcodeOf w = 0x50#8) :
    decode w = requireZero w 0x00000000#32 (.wenc1 (rdOf w) (rsOf w) (immOf w).toInt) := by
  unfold decode
  rw [h]
  rfl

theorem decode_wenc4 {w : Word} (h : opcodeOf w = 0x51#8) :
    decode w = requireZero w 0x00000000#32 (.wenc4 (rdOf w) (rsOf w) (immOf w).toInt) := by
  unfold decode
  rw [h]
  rfl

theorem decode_bundle {w : Word} (h : opcodeOf w = 0x52#8) :
    decode w = requireZero w 0x0000FFE0#32 (.bundle (rdOf w) (rsOf w) (w.extractLsb' 0 5).toNat) := by
  unfold decode
  rw [h]
  rfl

theorem decode_delay {w : Word} (h : opcodeOf w = 0x53#8) : decode w = requireZero w 0x000F0000#32 (.delay (rdOf w) (immOf w)) := by
  unfold decode
  rw [h]
  rfl

theorem decode_panint {w : Word} (h : opcodeOf w = 0x60#8) : decode w = requireZero w 0x0000FFFF#32 (.panint (rdOf w) (rsOf w)) := by
  unfold decode
  rw [h]
  rfl

theorem decode_emit {w : Word} (h : opcodeOf w = 0x70#8) : decode w = requireZero w 0x00F00000#32 (.emit (rsOf w) (immOf w)) := by
  unfold decode
  rw [h]
  rfl

/-- The opcode bytes of R73. -/
def opcodes : List (BitVec 8) :=
  [0x01#8, 0x02#8, 0x03#8, 0x08#8, 0x09#8, 0x0A#8, 0x10#8, 0x11#8, 0x20#8, 0x30#8, 0x40#8, 0x41#8,
   0x42#8, 0x43#8, 0x44#8, 0x45#8, 0x46#8, 0x50#8, 0x51#8, 0x52#8, 0x53#8, 0x60#8, 0x70#8]

/-- Any other opcode byte is refused by name. -/
theorem decode_reserved {w : Word} (h : opcodeOf w ∉ opcodes) : decode w = .error (.reservedOpcode (opcodeOf w)) := by
  unfold decode
  split <;> simp_all [opcodes]

/-- A word that decodes has one of the opcodes of R73. -/
theorem opcode_mem_of_decode {w : Word} {i : Instr} (h : decode w = .ok i) : opcodeOf w ∈ opcodes := by
  by_contra hn
  rw [decode_reserved hn] at h
  cases h

end Sys2Proof
end

