-- ==== Sys2Proof/Laws/State.lean ====
section
/-! SUPPORT. What each named update of State leaves in each field. -/

namespace Sys2Proof.Machine

@[simp] theorem setStatus_buf (code : BitVec 8) (s : State) : (setStatus code s).buf = s.buf := rfl
@[simp] theorem setStatus_opt (code : BitVec 8) (s : State) : (setStatus code s).opt = s.opt := rfl
@[simp] theorem setStatus_err (code : BitVec 8) (s : State) : (setStatus code s).err = code := rfl
@[simp] theorem setStatus_flt (code : BitVec 8) (s : State) : (setStatus code s).flt = (s.flt || code != okCode) := rfl
@[simp] theorem setStatus_sink (code : BitVec 8) (s : State) : (setStatus code s).sink = s.sink := rfl
@[simp] theorem setStatus_host (code : BitVec 8) (s : State) : (setStatus code s).host = s.host := rfl

@[simp] theorem takeOk_buf (s : State) : (takeOk s).buf = s.buf := rfl
@[simp] theorem takeOk_opt (s : State) : (takeOk s).opt = s.opt := rfl
@[simp] theorem takeOk_err (s : State) : (takeOk s).err = 0#8 := rfl
@[simp] theorem takeOk_flt (s : State) : (takeOk s).flt = s.flt := Bool.or_false _
@[simp] theorem takeOk_sink (s : State) : (takeOk s).sink = s.sink := rfl
@[simp] theorem takeOk_host (s : State) : (takeOk s).host = s.host := rfl

@[simp] theorem takeError_buf (c : Cause) (s : State) : (takeError c s).buf = s.buf := rfl
@[simp] theorem takeError_opt (c : Cause) (s : State) : (takeError c s).opt = s.opt := rfl
@[simp] theorem takeError_err (c : Cause) (s : State) : (takeError c s).err = causeCode c := rfl
@[simp] theorem takeError_flt (c : Cause) (s : State) : (takeError c s).flt = true := by cases c <;> exact Bool.or_true _
@[simp] theorem takeError_sink (c : Cause) (s : State) : (takeError c s).sink = s.sink := rfl
@[simp] theorem takeError_host (c : Cause) (s : State) : (takeError c s).host = s.host := rfl

@[simp] theorem clearOpt_buf (s : State) : (clearOpt s).buf = s.buf := rfl
@[simp] theorem clearOpt_opt (s : State) : (clearOpt s).opt = OptRec.empty := rfl
@[simp] theorem clearOpt_err (s : State) : (clearOpt s).err = s.err := rfl
@[simp] theorem clearOpt_flt (s : State) : (clearOpt s).flt = s.flt := rfl
@[simp] theorem clearOpt_sink (s : State) : (clearOpt s).sink = s.sink := rfl
@[simp] theorem clearOpt_host (s : State) : (clearOpt s).host = s.host := rfl

@[simp] theorem appendSink_buf (s : State) (topic : BitVec 16) (bytes : Buffer) : (appendSink s topic bytes).buf = s.buf := rfl
@[simp] theorem appendSink_opt (s : State) (topic : BitVec 16) (bytes : Buffer) : (appendSink s topic bytes).opt = s.opt := rfl
@[simp] theorem appendSink_err (s : State) (topic : BitVec 16) (bytes : Buffer) : (appendSink s topic bytes).err = s.err := rfl
@[simp] theorem appendSink_flt (s : State) (topic : BitVec 16) (bytes : Buffer) : (appendSink s topic bytes).flt = s.flt := rfl
@[simp] theorem appendSink_sink (s : State) (topic : BitVec 16) (bytes : Buffer) : (appendSink s topic bytes).sink = s.sink ++ [⟨topic, bytes⟩] := rfl
@[simp] theorem appendSink_host (s : State) (topic : BitVec 16) (bytes : Buffer) : (appendSink s topic bytes).host = s.host := rfl

@[simp] theorem setBuf_buf (s : State) (r : Reg) (v : Buffer) : (setBuf s r v).buf = s.buf.set r.val (some v) r.isLt := rfl
@[simp] theorem setBuf_opt (s : State) (r : Reg) (v : Buffer) : (setBuf s r v).opt = s.opt := rfl
@[simp] theorem setBuf_err (s : State) (r : Reg) (v : Buffer) : (setBuf s r v).err = s.err := rfl
@[simp] theorem setBuf_flt (s : State) (r : Reg) (v : Buffer) : (setBuf s r v).flt = s.flt := rfl
@[simp] theorem setBuf_sink (s : State) (r : Reg) (v : Buffer) : (setBuf s r v).sink = s.sink := rfl
@[simp] theorem setBuf_host (s : State) (r : Reg) (v : Buffer) : (setBuf s r v).host = s.host := rfl

@[simp] theorem setOptSlot_buf (s : State) (f : Field) (v : Slot) : (setOptSlot s f v).buf = s.buf := rfl
@[simp] theorem setOptSlot_opt (s : State) (f : Field) (v : Slot) : (setOptSlot s f v).opt = optSet s.opt f v := rfl
@[simp] theorem setOptSlot_err (s : State) (f : Field) (v : Slot) : (setOptSlot s f v).err = s.err := rfl
@[simp] theorem setOptSlot_flt (s : State) (f : Field) (v : Slot) : (setOptSlot s f v).flt = s.flt := rfl
@[simp] theorem setOptSlot_sink (s : State) (f : Field) (v : Slot) : (setOptSlot s f v).sink = s.sink := rfl
@[simp] theorem setOptSlot_host (s : State) (f : Field) (v : Slot) : (setOptSlot s f v).host = s.host := rfl

@[simp] theorem presentWord_buf (s : State) (w : Word) : (presentWord s w).buf = s.buf := rfl
@[simp] theorem presentWord_opt (s : State) (w : Word) : (presentWord s w).opt = s.opt := rfl
@[simp] theorem presentWord_err (s : State) (w : Word) : (presentWord s w).err = s.err := rfl
@[simp] theorem presentWord_flt (s : State) (w : Word) : (presentWord s w).flt = s.flt := rfl
@[simp] theorem presentWord_sink (s : State) (w : Word) : (presentWord s w).sink = s.sink := rfl
@[simp] theorem presentWord_host (s : State) (w : Word) : (presentWord s w).host = .command w :: s.host := rfl

@[simp] theorem applyReset_buf (s : State) : (applyReset s).buf = Vector.replicate 16 none := rfl
@[simp] theorem applyReset_opt (s : State) : (applyReset s).opt = OptRec.empty := rfl
@[simp] theorem applyReset_err (s : State) : (applyReset s).err = 0#8 := rfl
@[simp] theorem applyReset_flt (s : State) : (applyReset s).flt = false := rfl
@[simp] theorem applyReset_sink (s : State) : (applyReset s).sink = [] := rfl
@[simp] theorem applyReset_host (s : State) : (applyReset s).host = s.host := rfl

/-- Two states are equal when their fields are. -/
theorem State.ext_fields {s t : State} (hb : s.buf = t.buf) (ho : s.opt = t.opt) (he : s.err = t.err) (hf : s.flt = t.flt)
    (hs : s.sink = t.sink) (hh : s.host = t.host) : s = t := by
  cases s
  cases t
  simp_all

end Sys2Proof.Machine
end

