-- ==== Sys2Proof/Laws/Ops.lean ====
section
/-! SUPPORT. One lemma per shared operation that says all it can do, so that no proof about a command unfolds it. -/

namespace Sys2Proof.Machine

/-! Registers -/

@[simp] theorem setBuf_same (s : State) (r : Reg) (v : Buffer) : (setBuf s r v).buf[r] = some v :=
  Vector.getElem_set_self r.isLt

@[simp] theorem setBuf_other (s : State) {r q : Reg} (h : q ≠ r) (v : Buffer) : (setBuf s r v).buf[q] = s.buf[q] :=
  Vector.getElem_set_ne r.isLt q.isLt fun e => h (Fin.ext e.symm)

theorem readBuf_ok_iff {s : State} {r : Reg} {b : Buffer} : readBuf s r = .ok b ↔ s.buf[r] = some b := by
  unfold readBuf
  split <;> simp_all

theorem readBuf_error_iff {s : State} {r : Reg} {c : Cause} : readBuf s r = .error c ↔ s.buf[r] = none ∧ c = .unwritten := by
  unfold readBuf
  cases s.buf[r] <;> simp [eq_comm]

theorem writeBuf_ok_iff {s t : State} {r : Reg} {v : Buffer} :
    writeBuf s r v = .ok t ↔ v.length ≤ bufCap ∧ t = setBuf s r v := by
  unfold writeBuf
  split <;> simp_all [eq_comm]

theorem writeBuf_error_iff {s : State} {r : Reg} {v : Buffer} {c : Cause} :
    writeBuf s r v = .error c ↔ bufCap < v.length ∧ c = .capacity := by
  unfold writeBuf
  split <;> simp_all [eq_comm]

theorem readBuf_of_some {s : State} {r : Reg} {b : Buffer} (h : s.buf[r] = some b) : readBuf s r = .ok b := readBuf_ok_iff.2 h

theorem readBuf_of_none {s : State} {r : Reg} (h : s.buf[r] = none) : readBuf s r = .error .unwritten :=
  readBuf_error_iff.2 ⟨h, rfl⟩

theorem writeBuf_of_fits {s : State} {r : Reg} {v : Buffer} (h : v.length ≤ 65535) : writeBuf s r v = .ok (setBuf s r v) :=
  writeBuf_ok_iff.2 ⟨h, rfl⟩

theorem writeBuf_of_long {s : State} {r : Reg} {v : Buffer} (h : 65535 < v.length) : writeBuf s r v = .error .capacity :=
  writeBuf_error_iff.2 ⟨h, rfl⟩

theorem readRun_range_error_free {s : State} {r n : Nat} (h : r + n ≤ 16) {c : Cause} (e : readRun s r n = .error c) :
    c = .unwritten ∧ ∃ k : Fin 16, r ≤ k.val ∧ k.val < r + n ∧ s.buf[k] = none := by
  induction n generalizing r with
  | zero => simp [readRun] at e
  | succ n ih =>
    have hr : r < 16 := by omega
    rw [readRun, dif_pos hr] at e
    cases h1 : readBuf s ⟨r, hr⟩ with
    | error d =>
      rw [h1] at e
      obtain ⟨hn, rfl⟩ := readBuf_error_iff.1 h1
      cases e
      exact ⟨rfl, ⟨r, hr⟩, Nat.le_refl _, by simp, hn⟩
    | ok b =>
      rw [h1] at e
      cases h2 : readRun s (r + 1) n with
      | error d =>
        simp only [h2] at e
        cases e
        obtain ⟨hc, k, hk1, hk2, hk⟩ := ih (r := r + 1) (by omega) h2
        exact ⟨hc, k, by omega, by omega, hk⟩
      | ok bs => simp only [h2] at e; cases e

theorem readRun_ok {s : State} {r n : Nat} {bs : List Buffer} (e : readRun s r n = .ok bs) :
    bs.length = n ∧ ∀ k, (hk : k < n) → ∃ (h1 : r + k < 16) (h2 : k < bs.length), s.buf[r + k] = some bs[k] := by
  induction n generalizing r bs with
  | zero => simp [readRun] at e; subst e; simp
  | succ n ih =>
    rw [readRun] at e
    split at e
    · rename_i hr
      cases h1 : readBuf s ⟨r, hr⟩ with
      | error d => rw [h1] at e; cases e
      | ok b =>
        rw [h1] at e
        cases h2 : readRun s (r + 1) n with
        | error d => simp only [h2] at e; cases e
        | ok cs =>
          simp only [h2] at e
          cases e
          obtain ⟨hl, hall⟩ := ih h2
          refine ⟨by simp [hl], ?_⟩
          intro k hk
          cases k with
          | zero => exact ⟨by simpa using hr, by simp, by simpa using readBuf_ok_iff.1 h1⟩
          | succ k =>
            obtain ⟨a, c, d⟩ := hall k (by omega)
            exact ⟨by omega, by simpa using c, by simpa [Nat.add_assoc, Nat.add_comm 1 k] using d⟩
    · cases e

theorem readRun_of_valid {s : State} {r n : Nat} {bs : List Buffer} (hl : bs.length = n) (h16 : r + n ≤ 16)
    (h : ∀ k, (hk : k < n) → s.buf[r + k]'(by omega) = some (bs[k]'(by omega))) : readRun s r n = .ok bs := by
  induction n generalizing r bs with
  | zero => simp [readRun, List.length_eq_zero_iff.1 hl]
  | succ n ih =>
    cases bs with
    | nil => simp at hl
    | cons b bs =>
      have hr : r < 16 := by omega
      have h0 : readBuf s ⟨r, hr⟩ = .ok b := readBuf_ok_iff.2 (by simpa using h 0 (by omega))
      have h1 : readRun s (r + 1) n = .ok bs := by
        refine ih (by simpa using hl) (by omega) fun k hk => ?_
        have := h (k + 1) (by omega)
        simpa [Nat.add_assoc, Nat.add_comm 1 k] using this
      rw [readRun, dif_pos hr, h0]
      show (readRun s (r + 1) n >>= fun cs => Except.ok (b :: cs)) = _
      rw [h1]
      rfl

/-! Sequencing -/

@[simp] theorem ok_bind {α β : Type} (a : α) (f : α → Except Cause β) : (Except.ok a >>= f) = f a := rfl

@[simp] theorem error_bind {α β : Type} (c : Cause) (f : α → Except Cause β) : (Except.error c >>= f) = .error c := rfl

/-- A sequence of two answers ok exactly when both do. -/
theorem bind_ok_iff {α β : Type} {x : Except Cause α} {f : α → Except Cause β} {b : β} :
    (x >>= f) = .ok b ↔ ∃ a, x = .ok a ∧ f a = .ok b := by
  cases x <;> simp

/-- A sequence of two raises what the first raises, or what the second raises after the first. -/
theorem bind_error_iff {α β : Type} {x : Except Cause α} {f : α → Except Cause β} {c : Cause} :
    (x >>= f) = .error c ↔ x = .error c ∨ ∃ a, x = .ok a ∧ f a = .error c := by
  cases x <;> simp

@[simp] theorem raiseIf_true (c : Cause) : raiseIf true c = .error c := rfl

@[simp] theorem raiseIf_false (c : Cause) : raiseIf false c = .ok () := rfl

theorem raiseIf_ok_iff {b : Bool} {c : Cause} {u : Unit} : raiseIf b c = .ok u ↔ b = false := by
  cases b <;> simp [raiseIf]

theorem raiseIf_error_iff {b : Bool} {c d : Cause} : raiseIf b c = .error d ↔ b = true ∧ d = c := by
  cases b <;> simp [raiseIf, eq_comm]

/-! Ending a command -/

@[simp] theorem respond_ok (s t : State) : respond s (.ok t) = .next (takeOk t) := rfl

@[simp] theorem respond_error (s : State) (c : Cause) : respond s (.error c) = .next (takeError c s) := rfl

/-- All that the end of a command can answer (60_exceptions R262). -/
theorem respond_next_iff {s t : State} {x : Except Cause State} :
    respond s x = .next t ↔ (∃ u, x = .ok u ∧ t = takeOk u) ∨ ∃ c, x = .error c ∧ t = takeError c s := by
  cases x <;> simp [respond, eq_comm]

theorem causeCode_ne_zero (c : Cause) : causeCode c ≠ 0#8 := by cases c <;> decide

theorem causeCode_le (c : Cause) : (causeCode c).toNat ≤ 7 := by cases c <;> decide

theorem takeError_eq (c : Cause) (s : State) : takeError c s = { s with err := causeCode c, flt := true } :=
  State.ext_fields rfl rfl rfl (takeError_flt c s) rfl rfl

theorem takeOk_eq (s : State) : takeOk s = { s with err := 0#8 } :=
  State.ext_fields rfl rfl rfl (takeOk_flt s) rfl rfl

/-- The state after a command that writes one register. -/
theorem takeOk_setBuf (s : State) (r : Reg) (v : Buffer) : takeOk (setBuf s r v) = s.withResult r v := by
  rw [takeOk_eq]
  rfl

/-- The state after a command that fails. -/
theorem takeError_eq_withError (c : Cause) (s : State) : takeError c s = s.withError (causeCode c) := takeError_eq c s

theorem withResult_buf_same (s : State) (r : Reg) (v : Buffer) : (s.withResult r v).buf[r] = some v :=
  Vector.getElem_set_self r.isLt

theorem withResult_withResult (s : State) (r : Reg) (v w : Buffer) : (s.withResult r v).withResult r w = s.withResult r w := by
  simp [State.withResult]

/-! Options -/

theorem fieldSlot_injective {f g : Field} (h : fieldSlot f = fieldSlot g) : f = g := by
  revert h
  cases f <;> cases g <;> decide

theorem mem_fields (f : Field) : f ∈ fields := by cases f <;> decide

@[simp] theorem optGet_optSet_same (o : OptRec) (f : Field) (v : Slot) : optGet (optSet o f v) f = v :=
  Vector.getElem_set_self (fieldSlot f).isLt

@[simp] theorem optGet_optSet_other (o : OptRec) {f g : Field} (h : g ≠ f) (v : Slot) :
    optGet (optSet o f v) g = optGet o g :=
  Vector.getElem_set_ne (fieldSlot f).isLt (fieldSlot g).isLt fun e => h (fieldSlot_injective (Fin.ext e.symm))

@[simp] theorem optGet_empty (f : Field) : optGet OptRec.empty f = .absent := by cases f <;> rfl

theorem fieldOfId_fieldId (f : Field) : fieldOfId (fieldId f) = some f := by cases f <;> decide

theorem fieldOfId_eq_some_iff {fid : BitVec 8} {f : Field} : fieldOfId fid = some f ↔ fieldId f = fid := by
  constructor
  · intro h
    simpa using List.find?_some h
  · rintro rfl
    exact fieldOfId_fieldId f

/-- No field of a set is present exactly when every one of them is absent (40_buffer R107). -/
theorem anyPresent_eq_false_iff {p : Field → Bool} {o : OptRec} :
    anyPresent p o = false ↔ ∀ f, p f = true → optGet o f = .absent := by
  have key : ∀ v : Slot, isPresent v = false ↔ v = .absent := by intro v; cases v <;> simp [isPresent]
  simp only [anyPresent, List.any_eq_false, Bool.and_eq_true, not_and, Bool.not_eq_true, key]
  exact ⟨fun h f => h f (mem_fields f), fun h f _ => h f⟩

/-- Some field of a set is present exactly when one of them is not absent (R107). -/
theorem anyPresent_eq_true_iff {p : Field → Bool} {o : OptRec} :
    anyPresent p o = true ↔ ∃ f, p f = true ∧ optGet o f ≠ .absent := by
  rw [← Bool.not_eq_false, anyPresent_eq_false_iff]
  push Not
  rfl

/-! Byte sequences -/

@[simp] theorem length_le16 (v : BitVec 16) : (le16 v).length = 2 := rfl

@[simp] theorem length_le32 (v : Word) : (le32 v).length = 4 := rfl

@[simp] theorem toBuffer_nil : toBuffer [] = [] := rfl

@[simp] theorem toBuffer_cons (w : Word) (ws : List Word) : toBuffer (w :: ws) = le32 w ++ toBuffer ws := by
  simp [toBuffer]

@[simp] theorem toBuffer_append (v w : List Word) : toBuffer (v ++ w) = toBuffer v ++ toBuffer w := by
  simp [toBuffer]

@[simp] theorem length_toBuffer (ws : List Word) : (toBuffer ws).length = 4 * ws.length := by
  induction ws with
  | nil => rfl
  | cons w ws ih => simp [ih]; omega

@[simp] theorem length_bytesOf {n : Nat} (v : Vector Byte n) : (bytesOf v).length = n := List.length_ofFn

@[simp] theorem bytesOf_eq_toList {n : Nat} (v : Vector Byte n) : bytesOf v = v.toList := by
  apply List.ext_getElem <;> simp [bytesOf]

/-! The command port -/

theorem nextEvent_nil {s : State} (h : s.host = []) : nextEvent s = none := by simp [nextEvent, h]

theorem nextEvent_cons {s : State} {e : HostEvent} {rest : List HostEvent} (h : s.host = e :: rest) :
    nextEvent s = some (e, { s with host := rest }) := by simp [nextEvent, h]

/-- All that a step can do: wait, reset, or execute the next command word (30_encoding R70, 70_reset R303). -/
theorem step_cases (s : State) :
    (s.host = [] ∧ step s = .next s) ∨
    (∃ rest, s.host = .reset :: rest ∧ step s = .next (applyReset { s with host := rest })) ∨
    (∃ w rest, s.host = .command w :: rest ∧ step s = execWord w { s with host := rest }) := by
  cases h : s.host with
  | nil => exact .inl ⟨rfl, by rw [step, nextEvent_nil h]⟩
  | cons e rest =>
    cases e with
    | reset => exact .inr (.inl ⟨rest, rfl, by rw [step, nextEvent_cons h]⟩)
    | command w => exact .inr (.inr ⟨w, rest, rfl, by rw [step, nextEvent_cons h]⟩)

end Sys2Proof.Machine
end

