-- ==== Sys2Proof/Laws/Encodes.lean ====
section
/-! SUPPORT. From the decoder at an opcode to the words of a command and the words that are illegal. -/

namespace Sys2Proof.Machine

/-- A word that the decoder refuses ends with E_ILLEGAL (30_encoding R74). -/
theorem execWord_refused {w : Word} {e : DecodeError} (h : decode w = .error e) (s : State) :
    execWord w s = .next (s.withError 1#8) := by
  simp only [execWord, h, illegalWord, respond_error, takeError_eq_withError]
  rfl

/-- A word that the decoder accepts is its command. -/
theorem execWord_command {w : Word} {i : Instr} (h : decode w = .ok i) (s : State) : execWord w s = exec i s := by
  simp only [execWord, h]

/-- The encoding of a command, from what the decoder does at its opcode. -/
theorem encodes_of_decode {op : BitVec 8} {zero : Word} {i : Word → Instr}
    (h : ∀ {w : Word}, opcodeOf w = op → decode w = requireZero w zero (i w)) : Encodes op zero i := by
  intro w hw
  refine ⟨fun hz => ?_, fun hz s => ?_⟩
  · rw [h hw, requireZero, if_pos hz]
  · exact execWord_refused ((h hw).trans (if_neg hz)) s

end Sys2Proof.Machine
end

