-- ==== Sys2Proof/Laws/Exec.lean ====
section
/-! SUPPORT. What any command can do, said once (10_state R33, 60_exceptions R262): one lemma per command, and one for `exec`, from
which the frames and the invariants follow without unfolding a command. -/

namespace Sys2Proof.Machine

/-- What the successful part of a command may change, before its status is written: the destination registers `ds`, which it
leaves valid and within BUFCAP, OPT when `o`, SINK when `k`, and nothing else (R33). -/
structure Effect (ds : List Reg) (o k : Bool) (s t : State) : Prop where
  others   : ∀ r, r ∉ ds → t.buf[r] = s.buf[r]
  written  : ∀ r ∈ ds, ∃ b, t.buf[r] = some b ∧ b.length ≤ bufCap
  optKept  : o = false → t.opt = s.opt
  sinkKept : k = false → t.sink = s.sink
  err      : t.err = s.err
  flt      : t.flt = s.flt
  host     : t.host = s.host

/-- Writing one register has the effect of a command with that destination. -/
theorem writeBuf_effect {s t : State} {r : Reg} {v : Buffer} (h : writeBuf s r v = .ok t) : Effect [r] false false s t := by
  obtain ⟨hl, rfl⟩ := writeBuf_ok_iff.1 h
  refine ⟨fun q hq => setBuf_other s (by simpa using hq) v, ?_, fun _ => rfl, fun _ => rfl, rfl, rfl, rfl⟩
  intro q hq
  obtain rfl : q = r := by simpa using hq
  exact ⟨v, setBuf_same s q v, hl⟩

/-- Writing registers and then clearing OPT changes OPT besides. -/
theorem Effect.clear {ds : List Reg} {o k : Bool} {s t : State} (h : Effect ds o k s t) : Effect ds true k s (clearOpt t) :=
  ⟨h.others, h.written, nofun, h.sinkKept, h.err, h.flt, h.host⟩

/-- A command: it ends with what its rule computes, and what its rule computes, where it computes something, is an effect. -/
def IsCommand (i : Instr) (s : State) (out : Host.Outcome State Fault Refusal) : Prop :=
  ∃ x : Except Cause State, out = respond s x ∧ ∀ t, x = .ok t → Effect (destRegs i) (writesOpt i) (writesSink i) s t

theorem appendTo_effect {s t : State} {rd : Reg} {more : Buffer} (h : appendTo rd more s = .ok t) :
    Effect [rd] false false s t := by
  obtain ⟨b, -, hw⟩ := bind_ok_iff.1 h
  exact writeBuf_effect hw

theorem execBclr_isCommand (rd : Reg) (s : State) : IsCommand (.bclr rd) s (execBclr rd s) :=
  ⟨_, rfl, fun _ h => writeBuf_effect h⟩

theorem execAppb_isCommand (rd : Reg) (b : Byte) (s : State) : IsCommand (.appb rd b) s (execAppb rd b s) :=
  ⟨_, rfl, fun _ h => appendTo_effect h⟩

theorem execAppw_isCommand (rd : Reg) (v : BitVec 16) (s : State) : IsCommand (.appw rd v) s (execAppw rd v s) :=
  ⟨_, rfl, fun _ h => appendTo_effect h⟩

theorem execOptclr_isCommand (s : State) : IsCommand .optclr s (execOptclr s) := by
  refine ⟨_, rfl, fun t h => ?_⟩
  cases h
  exact ⟨fun _ _ => rfl, by simp [destRegs], nofun, fun _ => rfl, rfl, rfl, rfl⟩

/-- Writing one option slot has the effect of OPTSET and OPTNUL. -/
theorem setOptSlot_effect (s : State) (f : Field) (v : Slot) : Effect [] true false s (setOptSlot s f v) :=
  ⟨fun _ _ => rfl, by simp, nofun, fun _ => rfl, rfl, rfl, rfl⟩

theorem execOptset_isCommand (fid : BitVec 8) (v : BitVec 16) (s : State) :
    IsCommand (.optset fid v) s (execOptset fid v s) := by
  refine ⟨_, rfl, fun t h => ?_⟩
  split at h
  · cases h
  · split at h
    · cases h
    · cases h
      exact setOptSlot_effect s _ _

theorem execOptnul_isCommand (fid : BitVec 8) (s : State) : IsCommand (.optnul fid) s (execOptnul fid s) := by
  refine ⟨_, rfl, fun t h => ?_⟩
  split at h
  · cases h
  · split at h
    · cases h
      exact setOptSlot_effect s _ _
    · cases h

theorem execCksum_isCommand (rd rs : Reg) (start len : Nat) (s : State) :
    IsCommand (.cksum rd rs start len) s (execCksum rd rs start len s) := by
  refine ⟨_, rfl, fun t h => ?_⟩
  obtain ⟨b, -, h⟩ := bind_ok_iff.1 h
  obtain ⟨_, -, h⟩ := bind_ok_iff.1 h
  exact writeBuf_effect h

theorem execTpack_isCommand (rd : Reg) (s : State) : IsCommand (.tpack rd) s (execTpack rd s) := by
  refine ⟨_, rfl, fun t h => ?_⟩
  obtain ⟨_, -, h⟩ := bind_ok_iff.1 h
  obtain ⟨u, hu, h⟩ := bind_ok_iff.1 h
  cases h
  exact (writeBuf_effect hu).clear

theorem execDaikin_isCommand (rd : Reg) (s : State) : IsCommand (.daikin rd) s (execDaikin rd s) := by
  refine ⟨_, rfl, fun t h => ?_⟩
  obtain ⟨_, -, h⟩ := bind_ok_iff.1 h
  obtain ⟨_, -, h⟩ := bind_ok_iff.1 h
  obtain ⟨u, hu, h⟩ := bind_ok_iff.1 h
  obtain ⟨v, hv, h⟩ := bind_ok_iff.1 h
  cases h
  have e1 := writeBuf_effect hu
  have e2 := writeBuf_effect hv
  refine Effect.clear (o := false) ⟨?_, ?_, ?_, ?_, ?_, ?_, ?_⟩
  · intro r hr
    have hr' : r ≠ rd ∧ r ≠ rd + 1 := by simpa [destRegs] using hr
    rw [e2.others r (by simpa using hr'.2), e1.others r (by simpa using hr'.1)]
  · intro r hr
    by_cases h2 : r = rd + 1
    · exact e2.written r (by simpa using h2)
    · have hr' : r = rd := by simpa [destRegs, h2] using hr
      rw [e2.others r (by simpa using h2)]
      exact e1.written r (by simpa using hr')
  · intro h; rw [e2.optKept h, e1.optKept h]
  · intro h; rw [e2.sinkKept h, e1.sinkKept h]
  · rw [e2.err, e1.err]
  · rw [e2.flt, e1.flt]
  · rw [e2.host, e1.host]

theorem execMitsu_isCommand (rd : Reg) (s : State) : IsCommand (.mitsu rd) s (execMitsu rd s) := by
  refine ⟨_, rfl, fun t h => ?_⟩
  obtain ⟨_, -, h⟩ := bind_ok_iff.1 h
  obtain ⟨u, hu, h⟩ := bind_ok_iff.1 h
  cases h
  exact (writeBuf_effect hu).clear

theorem execDkoff_isCommand (rd : Reg) (ch : BitVec 1) (s : State) : IsCommand (.dkoff rd ch) s (execDkoff rd ch s) :=
  ⟨_, rfl, fun _ h => writeBuf_effect h⟩

theorem execDktog_isCommand (rd : Reg) (ch : BitVec 1) (s : State) : IsCommand (.dktog rd ch) s (execDktog rd ch s) :=
  ⟨_, rfl, fun _ h => writeBuf_effect h⟩

theorem execDkwht_isCommand (rd : Reg) (ch : BitVec 1) (s : State) : IsCommand (.dkwht rd ch) s (execDkwht rd ch s) :=
  ⟨_, rfl, fun _ h => writeBuf_effect h⟩

theorem execDkful_isCommand (rd : Reg) (ch : BitVec 1) (s : State) : IsCommand (.dkful rd ch) s (execDkful rd ch s) :=
  ⟨_, rfl, fun _ h => writeBuf_effect h⟩

theorem execDkwrm_isCommand (rd : Reg) (ch : BitVec 1) (s : State) : IsCommand (.dkwrm rd ch) s (execDkwrm rd ch s) :=
  ⟨_, rfl, fun _ h => writeBuf_effect h⟩

theorem execDkngt_isCommand (rd : Reg) (ch : BitVec 1) (i : Nat) (s : State) :
    IsCommand (.dkngt rd ch i) s (execDkngt rd ch i s) :=
  ⟨_, rfl, fun _ h => writeBuf_effect h⟩

theorem execDkon_isCommand (rd : Reg) (ch : BitVec 1) (w b : Nat) (s : State) :
    IsCommand (.dkon rd ch w b) s (execDkon rd ch w b s) :=
  ⟨_, rfl, fun _ h => writeBuf_effect h⟩

theorem execWenc1_isCommand (rd rs : Reg) (tag : Int) (s : State) : IsCommand (.wenc1 rd rs tag) s (execWenc1 rd rs tag s) := by
  refine ⟨_, rfl, fun t h => ?_⟩
  obtain ⟨b, -, h⟩ := bind_ok_iff.1 h
  obtain ⟨_, -, h⟩ := bind_ok_iff.1 h
  exact writeBuf_effect h

theorem execWenc4_isCommand (rd rs : Reg) (tag : Int) (s : State) : IsCommand (.wenc4 rd rs tag) s (execWenc4 rd rs tag s) := by
  refine ⟨_, rfl, fun t h => ?_⟩
  obtain ⟨b, -, h⟩ := bind_ok_iff.1 h
  obtain ⟨_, -, h⟩ := bind_ok_iff.1 h
  exact writeBuf_effect h

theorem execBundle_isCommand (rd rs : Reg) (n : Nat) (s : State) : IsCommand (.bundle rd rs n) s (execBundle rd rs n s) := by
  refine ⟨_, rfl, fun t h => ?_⟩
  obtain ⟨_, -, h⟩ := bind_ok_iff.1 h
  obtain ⟨cs, -, h⟩ := bind_ok_iff.1 h
  obtain ⟨_, -, h⟩ := bind_ok_iff.1 h
  exact writeBuf_effect h

theorem execDelay_isCommand (rd : Reg) (ms : BitVec 16) (s : State) : IsCommand (.delay rd ms) s (execDelay rd ms s) :=
  ⟨_, rfl, fun _ h => writeBuf_effect h⟩

theorem execPanint_isCommand (rd rs : Reg) (s : State) : IsCommand (.panint rd rs) s (execPanint rd rs s) := by
  refine ⟨_, rfl, fun t h => ?_⟩
  obtain ⟨p, -, h⟩ := bind_ok_iff.1 h
  exact writeBuf_effect h

theorem execEmit_isCommand (rs : Reg) (topic : BitVec 16) (s : State) : IsCommand (.emit rs topic) s (execEmit rs topic s) := by
  refine ⟨_, rfl, fun t h => ?_⟩
  obtain ⟨b, -, h⟩ := bind_ok_iff.1 h
  cases h
  exact ⟨fun _ _ => rfl, by simp [destRegs], fun _ => rfl, nofun, rfl, rfl, rfl⟩

/-- Every command ends with what its rule computes, within the table of R33. -/
theorem exec_isCommand (i : Instr) (s : State) : IsCommand i s (exec i s) := by
  cases i with
  | bclr rd => exact execBclr_isCommand rd s
  | appb rd b => exact execAppb_isCommand rd b s
  | appw rd v => exact execAppw_isCommand rd v s
  | optclr => exact execOptclr_isCommand s
  | optset fid v => exact execOptset_isCommand fid v s
  | optnul fid => exact execOptnul_isCommand fid s
  | cksum rd rs start len => exact execCksum_isCommand rd rs start len s
  | tpack rd => exact execTpack_isCommand rd s
  | daikin rd => exact execDaikin_isCommand rd s
  | mitsu rd => exact execMitsu_isCommand rd s
  | dkoff rd ch => exact execDkoff_isCommand rd ch s
  | dktog rd ch => exact execDktog_isCommand rd ch s
  | dkwht rd ch => exact execDkwht_isCommand rd ch s
  | dkful rd ch => exact execDkful_isCommand rd ch s
  | dkwrm rd ch => exact execDkwrm_isCommand rd ch s
  | dkngt rd ch i => exact execDkngt_isCommand rd ch i s
  | dkon rd ch w b => exact execDkon_isCommand rd ch w b s
  | wenc1 rd rs tag => exact execWenc1_isCommand rd rs tag s
  | wenc4 rd rs tag => exact execWenc4_isCommand rd rs tag s
  | bundle rd rs n => exact execBundle_isCommand rd rs n s
  | delay rd ms => exact execDelay_isCommand rd ms s
  | panint rd rs => exact execPanint_isCommand rd rs s
  | emit rs topic => exact execEmit_isCommand rs topic s

/-- All that a command can answer: its effect with status OK, or the error entry of one cause (R262). -/
theorem exec_cases {i : Instr} {s t : State} (h : exec i s = .next t) :
    (∃ u, Effect (destRegs i) (writesOpt i) (writesSink i) s u ∧ t = takeOk u) ∨ ∃ c, t = takeError c s := by
  obtain ⟨x, hx, he⟩ := exec_isCommand i s
  rw [hx, respond_next_iff] at h
  obtain ⟨u, rfl, rfl⟩ | ⟨c, -, rfl⟩ := h
  · exact .inl ⟨u, he u rfl, rfl⟩
  · exact .inr ⟨c, rfl⟩

end Sys2Proof.Machine
end

