-- ==== Sys2Proof/Laws/Packet.lean ====
section
/-! SUPPORT. The small facts about the byte sequences the encoders build: how two fields lie in a byte, and how long each piece is. -/

namespace Sys2Proof.Machine

/-- Two fields, the first above the second, are the first shifted up and the second below it. -/
theorem append_eq_shift_or {m n : Nat} (a : BitVec m) (b : BitVec n) :
    a ++ b = (a.setWidth (m + n) <<< n) ||| b.setWidth (m + n) := by
  apply BitVec.eq_of_getLsbD_eq
  intro i hi
  simp only [BitVec.getLsbD_append, BitVec.getLsbD_or, BitVec.getLsbD_shiftLeft, BitVec.getLsbD_setWidth]
  by_cases h : i < n
  · simp [h, hi]
  · simp only [h, hi, BitVec.getLsbD_of_ge b i (by omega), decide_true, decide_false, Bool.not_false, Bool.true_and,
      Bool.and_false, Bool.or_false, if_false]
    simp [show i - n < m + n by omega]

theorem length_sealPacket (b : Buffer) : (sealPacket b).length = b.length + 1 := by simp [sealPacket]

theorem length_timerPack (pos : OffLowPos) (on : Option (BitVec 11)) (off : Option (BitVec 8)) :
    (timerPack pos on off).length = 3 := rfl

theorem length_daikoFrame (ch : BitVec 1) (p : Buffer) : (daikoFrame ch p).length = 2 + 2 * p.length := by
  induction p with
  | nil => rfl
  | cons x p ih => simp_all [daikoFrame, daikoPair, daikoHdr]; omega

theorem length_flatMap_bundleEntry (cmds : List Buffer) :
    (cmds.flatMap bundleEntry).length = cmds.length + (cmds.map List.length).sum := by
  induction cmds with
  | nil => rfl
  | cons c cs ih => simp only [List.flatMap_cons, List.length_append, ih, bundleEntry]; simp; omega

theorem length_byteWords (b : Byte) : (byteWords b).length = 16 := rfl

theorem length_flatMap_byteWords (p : Buffer) : (p.flatMap byteWords).length = 16 * p.length := by
  induction p with
  | nil => rfl
  | cons b p ih => simp only [List.flatMap_cons, List.length_append, ih, length_byteWords, List.length_cons]; omega

/-- Bit `j` of a byte is words `2 j` and `2 j + 1` of its sixteen: the mark, then the space. -/
theorem byteWords_get (b : Byte) (j : Nat) (h : j < 8) :
    (byteWords b)[2 * j]? = some bitMark ∧ (byteWords b)[2 * j + 1]? = some (bitSpace (b.getLsbD j)) := by
  interval_cases j <;> exact ⟨rfl, rfl⟩

end Sys2Proof.Machine
end

