-- ==== Sys2Proof/Laws/PerInstr.lean ====
section
/-! SUPPORT. Statements made of every command, one lemma per constructor of Instr: every command's word lies in the row of
spec/opcode_table.json that carries its mnemonic (30_encoding R73, R74). -/

namespace Sys2Proof.Laws.EncodesItsRow

/-- The word of a command matches the row of its mnemonic. -/
def Statement (i : Instr) : Prop :=
  ∃ row ∈ opcodeRows, row.mnemonic = mnemonicOf i ∧ encode i &&& row.mask = row.pattern

/-- A word matches a row when its three parts do. -/
theorem matches_row {op mid mmid : BitVec 8} {imm mimm : BitVec 16} {mask pattern : Word}
    (hm : mask = wordOf 0xFF#8 mmid mimm) (hp : pattern = wordOf op 0#8 0#16) (h1 : mid &&& mmid = 0#8) (h2 : imm &&& mimm = 0#16) :
    wordOf op mid imm &&& mask = pattern := by
  have h0 : op &&& 0xFF#8 = op := by
    rw [show 0xFF#8 = BitVec.allOnes 8 from rfl, BitVec.and_allOnes]
  rw [hm, hp, wordOf_and, h0, h1, h2]

theorem and_zero8 (m : BitVec 8) : m &&& 0x00#8 = 0#8 := BitVec.and_zero

theorem and_zero16 (m : BitVec 16) : m &&& 0x0000#16 = 0#16 := BitVec.and_zero

theorem bclr (rd : Reg) : Statement (.bclr rd) :=
  ⟨⟨"BCLR", 0x01000000, 0xFF0FFFFF⟩, by decide, rfl,
    matches_row (mmid := 0x0F#8) (mimm := 0xFFFF#16) (by decide) (by decide) (midRegs_rd_zero rd) (by decide)⟩

theorem appb (rd : Reg) (imm8 : Byte) : Statement (.appb rd imm8) :=
  ⟨⟨"APPB", 0x02000000, 0xFF0FFF00⟩, by decide, rfl,
    matches_row (mmid := 0x0F#8) (mimm := 0xFF00#16) (by decide) (by decide) (midRegs_rd_zero rd) (by revert imm8; decide)⟩

theorem appw (rd : Reg) (imm16 : BitVec 16) : Statement (.appw rd imm16) :=
  ⟨⟨"APPW", 0x03000000, 0xFF0F0000⟩, by decide, rfl,
    matches_row (mmid := 0x0F#8) (mimm := 0x0000#16) (by decide) (by decide) (midRegs_rd_zero rd) (and_zero16 _)⟩

theorem optclr : Statement .optclr :=
  ⟨⟨"OPTCLR", 0x08000000, 0xFFFFFFFF⟩, by decide, rfl, by decide⟩

theorem optset (fid : BitVec 8) (v : BitVec 16) : Statement (.optset fid v) :=
  ⟨⟨"OPTSET", 0x09000000, 0xFF000000⟩, by decide, rfl,
    matches_row (mmid := 0x00#8) (mimm := 0x0000#16) (by decide) (by decide) (and_zero8 _) (and_zero16 _)⟩

theorem optnul (fid : BitVec 8) : Statement (.optnul fid) :=
  ⟨⟨"OPTNUL", 0x0A000000, 0xFF00FFFF⟩, by decide, rfl,
    matches_row (mmid := 0x00#8) (mimm := 0xFFFF#16) (by decide) (by decide) (and_zero8 _) (by decide)⟩

theorem cksum (rd rs : Reg) (start len : Nat) : Statement (.cksum rd rs start len) :=
  ⟨⟨"CKSUM", 0x10000000, 0xFF000000⟩, by decide, rfl,
    matches_row (mmid := 0x00#8) (mimm := 0x0000#16) (by decide) (by decide) (and_zero8 _) (and_zero16 _)⟩

theorem tpack (rd : Reg) : Statement (.tpack rd) :=
  ⟨⟨"TPACK", 0x11000000, 0xFF0FFFFF⟩, by decide, rfl,
    matches_row (mmid := 0x0F#8) (mimm := 0xFFFF#16) (by decide) (by decide) (midRegs_rd_zero rd) (by decide)⟩

theorem daikin (rd : Reg) : Statement (.daikin rd) :=
  ⟨⟨"DAIKIN", 0x20000000, 0xFF0FFFFF⟩, by decide, rfl,
    matches_row (mmid := 0x0F#8) (mimm := 0xFFFF#16) (by decide) (by decide) (midRegs_rd_zero rd) (by decide)⟩

theorem mitsu (rd : Reg) : Statement (.mitsu rd) :=
  ⟨⟨"MITSU", 0x30000000, 0xFF0FFFFF⟩, by decide, rfl,
    matches_row (mmid := 0x0F#8) (mimm := 0xFFFF#16) (by decide) (by decide) (midRegs_rd_zero rd) (by decide)⟩

theorem dkoff (rd : Reg) (ch : BitVec 1) : Statement (.dkoff rd ch) :=
  ⟨⟨"DKOFF", 0x40000000, 0xFF00FFFF⟩, by decide, rfl,
    matches_row (mmid := 0x00#8) (mimm := 0xFFFF#16) (by decide) (by decide) (and_zero8 _) (by decide)⟩

theorem dktog (rd : Reg) (ch : BitVec 1) : Statement (.dktog rd ch) :=
  ⟨⟨"DKTOG", 0x41000000, 0xFF00FFFF⟩, by decide, rfl,
    matches_row (mmid := 0x00#8) (mimm := 0xFFFF#16) (by decide) (by decide) (and_zero8 _) (by decide)⟩

theorem dkwht (rd : Reg) (ch : BitVec 1) : Statement (.dkwht rd ch) :=
  ⟨⟨"DKWHT", 0x42000000, 0xFF00FFFF⟩, by decide, rfl,
    matches_row (mmid := 0x00#8) (mimm := 0xFFFF#16) (by decide) (by decide) (and_zero8 _) (by decide)⟩

theorem dkful (rd : Reg) (ch : BitVec 1) : Statement (.dkful rd ch) :=
  ⟨⟨"DKFUL", 0x43000000, 0xFF00FFFF⟩, by decide, rfl,
    matches_row (mmid := 0x00#8) (mimm := 0xFFFF#16) (by decide) (by decide) (and_zero8 _) (by decide)⟩

theorem dkwrm (rd : Reg) (ch : BitVec 1) : Statement (.dkwrm rd ch) :=
  ⟨⟨"DKWRM", 0x44000000, 0xFF00FFFF⟩, by decide, rfl,
    matches_row (mmid := 0x00#8) (mimm := 0xFFFF#16) (by decide) (by decide) (and_zero8 _) (by decide)⟩

theorem dkngt (rd : Reg) (ch : BitVec 1) (intensity : Nat) : Statement (.dkngt rd ch intensity) := by
  have h : ∀ x : BitVec 4, (0#12 ++ x : BitVec 16) &&& 0xFFF0#16 = 0#16 := by decide
  exact ⟨⟨"DKNGT", 0x45000000, 0xFF00FFF0⟩, by decide, rfl,
    matches_row (mmid := 0x00#8) (mimm := 0xFFF0#16) (by decide) (by decide) (and_zero8 _) (h _)⟩

/-- The two zero bits of DKON's immediate. -/
theorem dkon_zero_bits (a b : BitVec 7) : (0#1 ++ a ++ 0#1 ++ b : BitVec 16) &&& 0x8080#16 = 0#16 := by
  apply BitVec.eq_of_getLsbD_eq
  intro i hi
  rw [BitVec.getLsbD_and, BitVec.getLsbD_append, BitVec.getLsbD_append, BitVec.getLsbD_append]
  interval_cases i <;> simp

theorem dkon (rd : Reg) (ch : BitVec 1) (warmth brightness : Nat) : Statement (.dkon rd ch warmth brightness) :=
  ⟨⟨"DKON", 0x46000000, 0xFF008080⟩, by decide, rfl,
    matches_row (mmid := 0x00#8) (mimm := 0x8080#16) (by decide) (by decide) (and_zero8 _) (dkon_zero_bits _ _)⟩

theorem wenc1 (rd rs : Reg) (tag : Int) : Statement (.wenc1 rd rs tag) :=
  ⟨⟨"WENC1", 0x50000000, 0xFF000000⟩, by decide, rfl,
    matches_row (mmid := 0x00#8) (mimm := 0x0000#16) (by decide) (by decide) (and_zero8 _) (and_zero16 _)⟩

theorem wenc4 (rd rs : Reg) (tag : Int) : Statement (.wenc4 rd rs tag) :=
  ⟨⟨"WENC4", 0x51000000, 0xFF000000⟩, by decide, rfl,
    matches_row (mmid := 0x00#8) (mimm := 0x0000#16) (by decide) (by decide) (and_zero8 _) (and_zero16 _)⟩

theorem bundle (rd rs : Reg) (n : Nat) : Statement (.bundle rd rs n) := by
  have h : ∀ x : BitVec 5, (0#11 ++ x : BitVec 16) &&& 0xFFE0#16 = 0#16 := by decide
  exact ⟨⟨"BUNDLE", 0x52000000, 0xFF00FFE0⟩, by decide, rfl,
    matches_row (mmid := 0x00#8) (mimm := 0xFFE0#16) (by decide) (by decide) (and_zero8 _) (h _)⟩

theorem delay (rd : Reg) (ms : BitVec 16) : Statement (.delay rd ms) :=
  ⟨⟨"DELAY", 0x53000000, 0xFF0F0000⟩, by decide, rfl,
    matches_row (mmid := 0x0F#8) (mimm := 0x0000#16) (by decide) (by decide) (midRegs_rd_zero rd) (and_zero16 _)⟩

theorem panint (rd rs : Reg) : Statement (.panint rd rs) :=
  ⟨⟨"PANINT", 0x60000000, 0xFF00FFFF⟩, by decide, rfl,
    matches_row (mmid := 0x00#8) (mimm := 0xFFFF#16) (by decide) (by decide) (and_zero8 _) (by decide)⟩

theorem emit (rs : Reg) (topic : BitVec 16) : Statement (.emit rs topic) :=
  ⟨⟨"EMIT", 0x70000000, 0xFFF00000⟩, by decide, rfl,
    matches_row (mmid := 0xF0#8) (mimm := 0x0000#16) (by decide) (by decide) (midRegs_rs_zero rs) (and_zero16 _)⟩

end Sys2Proof.Laws.EncodesItsRow
end

