-- ==== Sys2Proof/Tests/Slice0.lean ====
section
/-! SUPPORT. Tests of the model on the vectors of 95_test_vectors (expected results are the spec's, never the model's), ill-formed terms
that WellFormed refuses, words written out bit by bit from 30_encoding R71 and R72, and for every statement with hypotheses a
concrete state and operands that meet them. -/

namespace Sys2Proof.Machine

/-- The next state of an outcome. -/
def after : Host.Outcome State Fault Refusal → Option State
  | .next t => some t
  | .fault _ => none
  | .refused _ => none

/-- What a word leaves in one register, with its status. -/
def leaves (w : Word) (s : State) (r : Reg) : Option (BitVec 8 × Option Buffer) :=
  (after (execWord w s)).map fun t => (t.err, t.buf[r])

/-- The status a word ends with. -/
def statusOf (w : Word) (s : State) : Option (BitVec 8) := (after (execWord w s)).map State.err

/-- A reset machine with one register written. -/
def holding (r : Reg) (b : Buffer) : State := setBuf State.reset r b

/-- A reset machine with one option present. -/
def offering (f : Field) (v : Slot) : State := setOptSlot State.reset f v

/-- An option record from a list. -/
def options (l : List (Field × Slot)) : OptRec := l.foldl (fun o p => optSet o p.1 p.2) OptRec.empty

/-! Ill-formed commands, one for each check of WellFormed -/

theorem test_ill_formed_cksum_start : Instr.wellFormed (.cksum 0 0 256 0) = false := by decide

theorem test_ill_formed_cksum_len : Instr.wellFormed (.cksum 0 0 0 256) = false := by decide

theorem test_ill_formed_dkngt_intensity : Instr.wellFormed (.dkngt 0 0 16) = false := by decide

theorem test_ill_formed_dkon_warmth : Instr.wellFormed (.dkon 0 0 128 0) = false := by decide

theorem test_ill_formed_dkon_brightness : Instr.wellFormed (.dkon 0 0 0 128) = false := by decide

theorem test_ill_formed_wenc1_tag_low : Instr.wellFormed (.wenc1 0 0 (-32769)) = false := by decide

theorem test_ill_formed_wenc1_tag_high : Instr.wellFormed (.wenc1 0 0 32768) = false := by decide

theorem test_ill_formed_wenc4_tag_low : Instr.wellFormed (.wenc4 0 0 (-32769)) = false := by decide

theorem test_ill_formed_wenc4_tag_high : Instr.wellFormed (.wenc4 0 0 32768) = false := by decide

theorem test_ill_formed_bundle_n : Instr.wellFormed (.bundle 0 0 32) = false := by decide

/-! Every command decoded from a word written out field by field (R71, R72): opcode, rd, rs, immediate -/

theorem test_decode_bclr : decode 0b00000001001100000000000000000000#32 = .ok (.bclr 3) := by decide

theorem test_decode_appb : decode 0b00000010010100000000000010000101#32 = .ok (.appb 5 0x85) := by decide

theorem test_decode_appw : decode 0b00000011000100000000110110101110#32 = .ok (.appw 1 0x0DAE) := by decide

theorem test_decode_optclr : decode 0b00001000000000000000000000000000#32 = .ok (.optclr) := by decide

theorem test_decode_optset : decode 0b00001001000010110000000100101100#32 = .ok (.optset 0x0B 300) := by decide

theorem test_decode_optnul : decode 0b00001010000011000000000000000000#32 = .ok (.optnul 0x0C) := by decide

theorem test_decode_cksum : decode 0b00010000011001000000101000000101#32 = .ok (.cksum 6 4 10 5) := by decide

theorem test_decode_tpack : decode 0b00010001010000000000000000000000#32 = .ok (.tpack 4) := by decide

theorem test_decode_daikin : decode 0b00100000111100000000000000000000#32 = .ok (.daikin 15) := by decide

theorem test_decode_mitsu : decode 0b00110000010000000000000000000000#32 = .ok (.mitsu 4) := by decide

theorem test_decode_dkoff : decode 0b01000000000000010000000000000000#32 = .ok (.dkoff 0 1) := by decide

theorem test_decode_dktog : decode 0b01000001001000000000000000000000#32 = .ok (.dktog 2 0) := by decide

theorem test_decode_dkwht : decode 0b01000010001100010000000000000000#32 = .ok (.dkwht 3 1) := by decide

theorem test_decode_dkful : decode 0b01000011010000000000000000000000#32 = .ok (.dkful 4 0) := by decide

theorem test_decode_dkwrm : decode 0b01000100000000010000000000000000#32 = .ok (.dkwrm 0 1) := by decide

theorem test_decode_dkngt : decode 0b01000101000100010000000000001000#32 = .ok (.dkngt 1 1 8) := by decide

theorem test_decode_dkon : decode 0b01000110000000000110010001101110#32 = .ok (.dkon 0 0 100 110) := by decide

theorem test_decode_wenc1 : decode 0b01010000001000010000000011101111#32 = .ok (.wenc1 2 1 239) := by decide

theorem test_decode_wenc4 : decode 0b01010001001000011111111111111110#32 = .ok (.wenc4 2 1 (-2)) := by decide

theorem test_decode_bundle : decode 0b01010010000000010000000000010000#32 = .ok (.bundle 0 1 16) := by decide

theorem test_decode_delay : decode 0b01010011000100000000000111110100#32 = .ok (.delay 1 500) := by decide

theorem test_decode_panint : decode 0b01100000011001000000000000000000#32 = .ok (.panint 6 4) := by decide

theorem test_decode_emit : decode 0b01110000000000110000000100000010#32 = .ok (.emit 3 258) := by decide

/-- 95 section 3.6: w[19:17] of a Daiko command are ignored. -/
theorem test_decode_ignored_bits : decode 0x400E0000#32 = .ok (.dkoff 0 0) ∧ decode 0x40020000#32 = .ok (.dkoff 0 0) := by decide

/-- 95 section 3.9: the illegal words. -/
theorem test_illegal_words :
    ([0x00000000, 0xFFFFFFFF, 0x01300001, 0x020001FF, 0x08000001, 0x0A0B0001, 0x46008000, 0x45000010, 0x52000020, 0x53010000,
      0x03010000, 0x60000001, 0x70100000, 0x14000000] : List Word).all (fun w => statusOf w State.reset == some 1#8) = true := by decide

/-- R74: an illegal word leaves ERR 1 and FLT 1 and nothing else. -/
theorem test_illegal_effect : after (execWord 0x14000000#32 State.reset) = some { State.reset with err := 1, flt := true } := by decide

/-- The host's view of the decoder and of the fetch. -/
theorem test_decode_table_word : decodeTableWord 32 0x46010A0A = some (.dkon 0 1 10 10) ∧ decodeTableWord 32 0x14000000 = none := by
  decide

theorem test_with_fetch_word :
    after (step (State.reset.withFetchWord 32 0x01300000)) = some { holding 3 [] with err := 0 } := by decide

/-- R32: a reset signal, and a host with nothing to do. -/
theorem test_reset_signal :
    after (step { holding 3 [1] with err := 4, flt := true, sink := [⟨1, [1]⟩], host := [.reset] }) = some State.reset := by decide

/-! Buffer and option commands (95 section 3.1) -/

theorem test_bclr : leaves 0x01300000 State.reset 3 = some (0, some []) := by decide

theorem test_appb : leaves 0x02000085 (holding 0 []) 0 = some (0, some [0x85]) := by decide

theorem test_appb_unwritten : leaves 0x02000085 State.reset 0 = some (4, none) := by decide

theorem test_appw : leaves 0x03100DAE (holding 1 [1]) 1 = some (0, some [0x01, 0xAE, 0x0D, 0x00, 0x00]) := by decide

theorem test_appw_negative : leaves 0x03008000 (holding 0 []) 0 = some (0, some [0x00, 0x80, 0xFF, 0xFF]) := by decide

theorem test_to_buffer : toBuffer [240, -1, 3502, 0x80000000, 2147483647] =
    [0xF0, 0, 0, 0, 0xFF, 0xFF, 0xFF, 0xFF, 0xAE, 0x0D, 0, 0, 0, 0, 0, 0x80, 0xFF, 0xFF, 0xFF, 0x7F] := by decide

theorem test_optset : ((after (execWord 0x09020019 State.reset)).map fun t => optGet t.opt .dkTemperature) = some (.num 25) := by
  decide

theorem test_optset_range : statusOf 0x09020080 State.reset = some 7 ∧ statusOf 0x09140010 State.reset = some 0 ∧
    statusOf 0x0914000F State.reset = some 7 ∧ statusOf 0x090B07FF State.reset = some 0 ∧ statusOf 0x090B0800 State.reset = some 7 ∧
    statusOf 0x090E0000 State.reset = some 7 := by decide

theorem test_optnul : ((after (execWord 0x0A0B0000 State.reset)).map fun t => optGet t.opt .dkOnTimer) = some .unset ∧
    statusOf 0x0A000000 State.reset = some 7 := by decide

theorem test_optclr : (after (execWord 0x08000000 (offering .miMode (.num 3)))).map State.opt = some OptRec.empty := by decide

/-! Checksum and timer (95 sections 3.2 and 3.3) -/

theorem test_checksum : checksum [0xFF, 1] 0 2 = 0 ∧ checksum [0xFF, 2, 0x80] 0 3 = 0x81 ∧ checksum [1, 2, 3, 4, 5] 1 3 = 9 ∧
    checksum [1, 2, 3, 4, 5] 5 0 = 0 := by decide

theorem test_cksum : leaves 0x10000003 (holding 0 [0xFF, 2, 0x80]) 0 = some (0, some [0x81]) ∧
    statusOf 0x10100202 (holding 0 [0xFF, 2, 0x80]) = some 5 ∧ leaves 0x10100300 (holding 0 [0xFF, 2, 0x80]) 1 = some (0, some [0]) := by
  decide

theorem test_timer_pack : timerPack .bit7 none none = [0, 0x60, 0x60] ∧ timerPack .bit7 (some 1) (some 1) = [1, 0x80, 0] ∧
    timerPack .bit7 (some 1440) (some 0) = [0xA0, 0x50, 0] ∧ timerPack .bit7 (some 2047) (some 255) = [0xFF, 0xF0, 0x7F] ∧
    timerPack .bit7 (some 300) (some 61) = [0x2C, 0x90, 0x1E] ∧ timerPack .bit7 (some 60) (some 90) = [0x3C, 0, 0x2D] := by decide

theorem test_timer_pack_positions : timerPack .bit0 none (some 1) = [0, 0x61, 0] ∧ timerPack .bit1 none (some 1) = [0, 0x62, 0] ∧
    timerPack .bit2 none (some 1) = [0, 0x64, 0] ∧ timerPack .bit3 none (some 1) = [0, 0x68, 0] ∧
    timerPack .bit7 none (some 1) = [0, 0xE0, 0] := by decide

theorem test_tpack_foreign : after (execWord 0x11300000 (offering .dkPower (.num 1))) =
    some { offering .dkPower (.num 1) with err := 7, flt := true } := by decide

/-! The appliance encoders at CFG_REF (95 sections 3.4 and 3.5) -/

theorem test_daikin_p1 : daikinP1 Config.ref Config.ref.daikinDef =
    [0xA0, 0xA1, 0xA2, 0xA3, 0xA4, 0xA5, 0xA6, 0xA7, 0xA8, 0xA9, 0xAA, 0xAB, 0x0C, 0xB0, 0xB1, 0xB2, 0xB3, 0xB4, 0xB5, 0xFD] := by decide

theorem test_daikin_s7 : daikinP2 Config.ref (daikinMerge Config.ref.daikinDef
      (options [(.dkPower, .num 1), (.dkMode, .num 4), (.dkTemperature, .num 25)])) =
    [0xC0, 0xC1, 0xC2, 0xC3, 0xC4, 0x49, 0x32, 0x07, 0xA0, 0x05, 0x00, 0x60, 0x60, 0x4A, 0x2A, 0xC3, 0x16, 0x17, 0x15] := by decide

theorem test_daikin_all_fields : daikinP2 Config.ref (daikinMerge Config.ref.daikinDef (options
      ([(.dkPower, .num 1), (.dkMode, .num 3), (.dkTemperature, .num 22), (.dkFanSpeed, .num 3), (.dkVaneDirection, .num 15),
        (.dkLeftRight, .num 15), (.dkSilent, .num 1)] ++
       [(.dkPowerfulMode, .num 1), (.dkIntelligentOn, .num 1), (.dkOnTimerSet, .num 1), (.dkOffTimerSet, .num 1),
        (.dkOnTimer, .num 300), (.dkOffTimer, .num 61), (.dkFanYonder, .num 255)]))) =
    [0xC0, 0xC1, 0xC2, 0xC3, 0xC4, 0x3F, 0x2C, 0x07, 0x3F, 0xF5, 0x2C, 0x90, 0x1E, 0x5B, 0xAA, 0xC3, 0x16, 0x17, 0x3F] := by decide

theorem test_daikin_timers : daikinP2 Config.ref (daikinMerge Config.ref.daikinDef
      (options [(.dkOnTimer, .unset), (.dkOffTimer, .num 61)])) =
    [0xC0, 0xC1, 0xC2, 0xC3, 0xC4, 0x08, 0x24, 0x07, 0xA0, 0x05, 0x00, 0xE0, 0x1E, 0x4A, 0x2A, 0xC3, 0x16, 0x17, 0x04] := by decide

theorem test_daikin_errors : statusOf 0x20F00000 (offering .miTimerMode (.num 0)) = some 5 ∧
    statusOf 0x20000000 (offering .miTimerMode (.num 0)) = some 7 := by decide

theorem test_mitsu_default : mitsuEncode Config.ref Config.ref.mitsuDef =
    [0xD0, 0xD1, 0xD2, 0xD3, 0xD4, 0x22, 0x31, 0x0D, 0x00, 0x00, 0x5A, 0x46, 0x80, 0x9A] := by decide

theorem test_mitsu_all_fields : mitsuEncode Config.ref (mitsuMerge Config.ref.mitsuDef (options
      ([(.miTimerMode, .num 3), (.miOn, .num 1), (.miDryIntensity, .num 3), (.miMode, .num 3), (.miTemperature, .num 20)] ++
       [(.miIsTimerCommand, .num 3), (.miWindDirection, .num 5), (.miWindSpeed, .num 5), (.miTimerValue, .num 255),
        (.miCoolFeeling, .num 1)]))) =
    [0xD0, 0xD1, 0xD2, 0xD3, 0xD4, 0x3E, 0x3F, 0x0B, 0xED, 0xFF, 0x5A, 0x66, 0x80, 0xCE] := by decide

theorem test_mitsu_foreign : statusOf 0x30400000 (offering .dkPower (.num 1)) = some 7 := by decide

/-! Daiko lights (95 section 3.6) -/

theorem test_fixed_daiko_frames : daikoFrame 0 [Config.ref.daikoCodeOff] = [0x85, 0xFB, 0x01, 0xFE] ∧
    daikoFrame 1 [Config.ref.daikoCodeOff] = [0x85, 0xFB, 0x81, 0x7E] ∧ daikoFrame 0 [Config.ref.daikoCodeToggle] = [0x85, 0xFB, 0x02, 0xFD] ∧
    daikoFrame 0 [Config.ref.daikoCodeWhite] = [0x85, 0xFB, 0x03, 0xFC] ∧ daikoFrame 0 [Config.ref.daikoCodeFull] = [0x85, 0xFB, 0x04, 0xFB] ∧
    daikoFrame 1 [Config.ref.daikoCodeWarm] = [0x85, 0xFB, 0x85, 0x7A] := by decide

theorem test_dkngt : leaves 0x4500000A State.reset 0 = some (0, some [0x85, 0xFB, 0x12, 0xED]) ∧
    leaves 0x45010007 State.reset 0 = some (0, some [0x85, 0xFB, 0x8C, 0x73]) ∧
    leaves 0x45110008 State.reset 1 = some (0, some [0x85, 0xFB, 0x90, 0x6F]) := by decide

theorem test_night_codes : (List.range 16).map nightCode = [5, 6, 7, 8, 9, 10, 11, 12, 16, 17, 18, 19, 20, 21, 22, 23] := by decide

theorem test_dkon : leaves 0x46010A0A State.reset 0 = some (0, some [0x85, 0xFB, 0xA6, 0x59, 0x9C, 0x63]) ∧
    leaves 0x4600646E State.reset 0 = some (0, some [0x85, 0xFB, 0x80, 0x7F, 0x80, 0x7F]) ∧
    leaves 0x46007F7F State.reset 0 = some (0, some [0x85, 0xFB, 0x9B, 0x64, 0x91, 0x6E]) := by decide

/-! Framing (95 section 3.7) -/

theorem test_wenc1 : leaves 0x50210010 (holding 1 [1, 2, 3]) 2 = some (0, some [0x10, 1, 2, 3]) ∧
    leaves 0x5066FFFF (holding 6 [0xF0]) 6 = some (0, some [0xFF, 0xF0]) := by decide

theorem test_wenc4 : leaves 0x5121FFFF (holding 1 [1, 2, 3]) 2 = some (0, some [0xFF, 0xFF, 0xFF, 0xFF, 1, 2, 3]) ∧
    leaves 0x51210010 (holding 1 [1, 2, 3]) 2 = some (0, some [0x10, 0, 0, 0, 1, 2, 3]) := by decide

theorem test_unknown_tags : ([14, 0, 18, 238, 242, -2] : List Int).all (fun t => !isEncoding t) = true ∧
    statusOf 0x5121000E (holding 1 [1, 2, 3]) = some 2 ∧ statusOf 0x5001000E State.reset = some 4 := by decide

theorem test_bundle : leaves 0x52300002 (setBuf (holding 0 [0xAA, 0xBB]) 1 [0xCC]) 3 = some (0, some [2, 2, 0xAA, 0xBB, 1, 0xCC]) ∧
    leaves 0x520F0000 State.reset 0 = some (0, some [0]) ∧ bundle [[], [1]] = [2, 0, 1, 1] := by decide

theorem test_bundle_errors : statusOf 0x52000010 State.reset = some 4 ∧ statusOf 0x52010010 State.reset = some 5 ∧
    statusOf 0x52000011 State.reset = some 5 ∧ statusOf 0x520F0002 State.reset = some 5 := by decide

theorem test_delay : leaves 0x531001F4 State.reset 1 = some (0, some [0xEF, 0xF4, 0x01]) := by decide

theorem test_emit : (after (execWord 0x70070102 (holding 7 [1, 2]))).map State.sink = some [⟨258, [1, 2]⟩] := by decide

/-! Pulse-timing expansion (95 section 3.8) -/

theorem test_pan_words : panWords 35 [0xA5] = [240, 35, 3502, 1700, 502, 1244, 502, 400, 502, 1244, 502, 400, 502, 400, 502, 1244,
    502, 400, 502, 1244, 502] := by decide

theorem test_pan_words_order : (panWords 35 [0x12, 0x34]).map BitVec.toNat =
    [240, 35, 3502, 1700, 502, 400, 502, 1244, 502, 400, 502, 400, 502, 1244, 502, 400, 502, 400, 502, 400] ++
    [502, 400, 502, 400, 502, 1244, 502, 400, 502, 1244, 502, 1244, 502, 400, 502, 400, 502] := by decide

theorem test_pan_intervals_empty : panIntervals 35 [] =
    [0xF0, 0, 0, 0, 0x23, 0, 0, 0, 0xAE, 0x0D, 0, 0, 0xA4, 0x06, 0, 0, 0xF6, 0x01, 0, 0] := by decide

/-! The assembler (30_encoding R77, R78, with the lines of 95) -/

set_option maxRecDepth 4000 in
theorem test_assemble : assembleLine "DKON B0, 1, 10, 10".toList = some [0x46010A0A] ∧
    assembleLine "WENC4 B2, B1, unknown".toList = some [0x5121FFFF] ∧
    assembleLine "LIT B0, 0x12, 0x34".toList = some [0x01000000, 0x02000012, 0x02000034] := by decide

set_option maxRecDepth 4000 in
theorem test_assemble_options : assembleLine "OPTSET dk.temperature, 25 ; heat".toList = some [0x09020019] ∧
    assembleLine "OPT dk.off_timer=unset".toList = some [0x0A0C0000] ∧ assembleLine "BCLR B16".toList = none := by decide

/-! CFG's open values stay free: what holds of the machine's own packets for every CFG (95 S7, sections 3.5, 3.6, 3.8) -/

/-- The status and the length of what a word leaves in one register. -/
def leavesLength (w : Word) (s : State) (r : Reg) : Option (BitVec 8 × Option Nat) :=
  (leaves w s r).map fun p => (p.1, p.2.map List.length)

theorem test_daikin_lengths : leavesLength 0x20000000 State.reset 0 = some (0, some 20) ∧
    leavesLength 0x20000000 State.reset 1 = some (0, some 19) := by decide

theorem test_mitsu_temperature : leavesLength 0x30400000 (offering .miTemperature (.num 25)) 4 = some (0, some 14) ∧
    (mitsuMerge Config.cfg.mitsuDef (offering .miTemperature (.num 25)).opt).temperatureWire = 6 := by decide

theorem test_fixed_daiko_lengths : ([0x40000000, 0x41000000, 0x42000000, 0x43000000, 0x44010000] : List Word).all
    (fun w => leavesLength w State.reset 0 == some (0, some 4)) = true := by decide

theorem test_tpack : leavesLength 0x11400000 (offering .dkOnTimer (.num 300)) 4 = some (0, some 3) ∧
    (after (execWord 0x11400000 (offering .dkOnTimer (.num 300)))).map State.opt = some OptRec.empty := by decide

set_option maxRecDepth 4000 in
theorem test_panint : leavesLength 0x60100000 (holding 0 [0x12, 0x34]) 1 = some (0, some 148) ∧
    statusOf 0x60100000 State.reset = some 4 := by decide

/-! For each statement with hypotheses, a state and operands that meet them together, one for each clause. The buffers at the edge of
BUFCAP are `replicate`s, whose length no evaluation has to count. -/

/-- A buffer of `n` zero bytes. -/
def zeros (n : Nat) : Buffer := List.replicate n 0

theorem zeros_length (n : Nat) : (zeros n).length = n := List.length_replicate

theorem holding_self (r : Reg) (b : Buffer) : (holding r b).buf[r] = some b := setBuf_same State.reset r b

/-- A reset machine to which the host presents one word. -/
def presented (w : Word) : State := { State.reset with host := [.command w] }

theorem test_meets_reset : ({ State.reset with host := [.reset] } : State).host = .reset :: [] := rfl

theorem test_meets_every_step_keeps_legal : ∃ s t : State, s.Legal ∧ step s = .next t ∧ s ≠ t := by
  refine ⟨{ holding 0 [] with host := [.command 0x02000085] }, _, ⟨?_, ?_, ?_, ?_, ?_⟩, rfl, ?_⟩
  · intro r b h
    by_cases hr : r = 0
    · subst hr
      have hb : b = [] := (Option.some.inj ((holding_self 0 []).symm.trans h)).symm
      subst hb
      exact Nat.zero_le _
    · have h0 : (holding 0 []).buf[r] = none := (setBuf_other State.reset hr []).trans (Vector.getElem_replicate _)
      exact absurd (h0.symm.trans h) nofun
  · intro f
    cases f <;> rfl
  · decide
  · exact fun h => absurd rfl h
  · exact fun _ h => absurd h List.not_mem_nil
  · exact fun h => absurd (congrArg State.host h) nofun

theorem test_meets_failing_command : ∃ t, step (presented 0x02000085) = .next t ∧ t.err ≠ 0#8 := ⟨_, rfl, by decide⟩

theorem test_meets_succeeding_command : ∃ t, step (presented 0x01300000) = .next t ∧ t.err = 0#8 := ⟨_, rfl, rfl⟩

theorem test_meets_only_reset_clears : ∃ s t : State, (∀ rest, s.host ≠ .reset :: rest) ∧ step s = .next t ∧ s.flt = true ∧
    s.buf[(3 : Reg)] ≠ none :=
  ⟨{ holding 3 [1] with flt := true, host := [.command 0x01300000] }, _, nofun, rfl, rfl, nofun⟩

theorem test_meets_frame : ∃ t, exec (.bclr 3) State.reset = .next t ∧ (4 : Reg) ∉ destRegs (.bclr 3) ∧ writesOpt (.bclr 3) = false ∧
    writesSink (.bclr 3) = false := ⟨_, rfl, by decide, rfl, rfl⟩

theorem test_meets_sources : ∃ s' t', (∀ r ∈ sourceRegs (.wenc1 2 1 16), (holding 1 [9]).buf[r] =
      ({ holding 1 [9] with err := 4, flt := true, opt := options [(.dkPower, .num 1)], sink := [⟨1, []⟩] } : State).buf[r]) ∧
    readsOpt (.wenc1 2 1 16) = false ∧ exec (.wenc1 2 1 16) (holding 1 [9]) = .next s' ∧
    exec (.wenc1 2 1 16) { holding 1 [9] with err := 4, flt := true, opt := options [(.dkPower, .num 1)], sink := [⟨1, []⟩] } = .next t' ∧
    s'.err = 0#8 := ⟨_, _, fun _ _ => rfl, rfl, rfl, rfl, rfl⟩

theorem test_meets_step_runs : (presented 0x46010A0A).host = .command 0x46010A0A :: [] ∧ decode 0x46010A0A = .ok (.dkon 0 1 10 10) := by
  decide

theorem test_meets_illegal_word : (presented 0x14000000).host = .command 0x14000000 :: [] ∧
    ∀ row ∈ opcodeRows, (0x14000000 : Word) &&& row.mask ≠ row.pattern := by decide

theorem test_meets_decoder_table : decode 0x53F0FFFF = .ok (.delay 15 0xFFFF) ∧
    ∃ row ∈ opcodeRows, (0x53F0FFFF : Word) &&& row.mask = row.pattern := by decide

theorem test_meets_well_formed : Instr.wellFormed (.dkon 15 1 127 127) = true ∧ Instr.wellFormed (.wenc4 0 15 (-32768)) = true := by decide

theorem test_meets_daiko_selector : 0x40 ≤ (opcodeOf 0x400E0000).toNat ∧ (opcodeOf 0x46000000).toNat ≤ 0x46 := by decide

theorem test_meets_literal_loads : ([] : List Byte).length ≤ 65535 ∧ (zeros 65535).length ≤ 65535 ∧
    ({ State.reset with host := (litInstrs 0 (zeros 65535)).map (fun i => HostEvent.command (encode i)) ++ [.reset] } : State).host =
      (litInstrs 0 (zeros 65535)).map (fun i => HostEvent.command (encode i)) ++ [.reset] :=
  ⟨by decide, Nat.le_of_eq (zeros_length _), rfl⟩

theorem test_meets_word_loads : 4 * (List.replicate 16383 (0 : BitVec 16)).length ≤ 65535 ∧
    ({ State.reset with host := (wordsInstrs 0 [1]).map (fun i => HostEvent.command (encode i)) ++ [] } : State).host =
      (wordsInstrs 0 [1]).map (fun i => HostEvent.command (encode i)) ++ [] := by
  rw [List.length_replicate]
  exact ⟨by decide, rfl⟩

theorem test_meets_appb : (∃ b, (holding 7 (zeros 65534)).buf[(7 : Reg)] = some b ∧ b.length < 65535) ∧
    State.reset.buf[(7 : Reg)] = none ∧ ∃ b, (holding 7 (zeros 65535)).buf[(7 : Reg)] = some b ∧ 65535 ≤ b.length :=
  ⟨⟨_, holding_self _ _, by rw [zeros_length]; decide⟩, rfl, _, holding_self _ _, by rw [zeros_length]⟩

theorem test_meets_appw : (0xFFFFFFFF#32 : Word).toInt = (0xFFFF#16).toInt ∧
    (∃ b, (holding 7 (zeros 65531)).buf[(7 : Reg)] = some b ∧ b.length + 4 ≤ 65535) ∧ State.reset.buf[(7 : Reg)] = none ∧
    ∃ b, (holding 7 (zeros 65532)).buf[(7 : Reg)] = some b ∧ 65535 < b.length + 4 :=
  ⟨by decide, ⟨_, holding_self _ _, by rw [zeros_length]⟩, rfl, _, holding_self _ _, by rw [zeros_length]; decide⟩

theorem test_meets_to_buffer : ([240#32, 0xFFFFFFFF#32] : List Word)[1]? = some 0xFFFFFFFF#32 := rfl

theorem test_meets_optset : (∃ row ∈ optionTable, row.fid = 0x14 ∧ row.least ≤ (16#16).toNat ∧ (31#16).toNat ≤ row.greatest) ∧
    (∀ row ∈ optionTable, row.fid = 0x14 → ¬ (row.least ≤ (15#16).toNat ∧ (15#16).toNat ≤ row.greatest)) ∧
    ∀ row ∈ optionTable, row.fid ≠ 0x1A := by decide

theorem test_meets_optnul : (∃ row ∈ optionTable, row.fid = 0x0B ∨ row.fid = 0x0C) ∧ (0x0D#8 ≠ 0x0B#8 ∧ 0x0D#8 ≠ 0x0C#8) := by decide

theorem test_meets_encoders : readsOpt (.mitsu 0) = true ∧ (∃ t, exec (.mitsu 0) State.reset = .next t ∧ t.err = 0#8) ∧
    ∃ t, exec (.mitsu 0) (offering .dkPower (.num 1)) = .next t ∧ t.err ≠ 0#8 := ⟨rfl, ⟨_, rfl, rfl⟩, _, rfl, by decide⟩

theorem test_meets_checksum : 1 + 2 ≤ ([0xFF, 1, 2] : Buffer).length ∧ ([1, 2, 3] : Buffer).Perm [3, 1, 2] := by decide

theorem test_meets_cksum : (∃ b, (holding 0 [1, 2]).buf[(0 : Reg)] = some b ∧ 1 + 1 ≤ b.length) ∧ State.reset.buf[(0 : Reg)] = none ∧
    ∃ b, (holding 0 [1, 2]).buf[(0 : Reg)] = some b ∧ b.length < 1 + 2 := ⟨⟨_, rfl, by decide⟩, rfl, _, rfl, by decide⟩

theorem test_meets_tpack : (∀ f : Field, f ≠ .dkOnTimer → f ≠ .dkOffTimer →
      optGet (options [(.dkOnTimer, .num 2047), (.dkOffTimer, .unset)]) f = .absent) ∧
    BareTimer (optGet (options [(.dkOnTimer, .num 2047), (.dkOffTimer, .unset)]) .dkOnTimer) (some 2047#11) ∧
    BareTimer (w := 8) (optGet (options [(.dkOnTimer, .num 2047), (.dkOffTimer, .unset)]) .dkOffTimer) none := by
  refine ⟨fun f => ?_, .inr ⟨2047, rfl, rfl⟩, .inl ⟨rfl, .inr rfl⟩⟩
  cases f <;> decide

theorem test_meets_tpack_foreign : Field.miOn ≠ .dkOnTimer ∧ Field.miOn ≠ .dkOffTimer ∧
    optGet (offering .miOn (.num 1)).opt .miOn ≠ .absent := by decide

theorem test_meets_packets : daikinP2 Config.cfg Config.cfg.daikinDef ∈
    [daikinP1 Config.cfg Config.cfg.daikinDef, daikinP2 Config.cfg Config.cfg.daikinDef, mitsuEncode Config.cfg Config.cfg.mitsuDef] := by
  simp

theorem test_meets_daikin_temperature : optGet (options [(.dkTemperature, .num 127)]) .dkTemperature = .num 127 ∧ 127 ≤ 127 ∧
    optGet OptRec.empty .dkTemperature = .absent := by decide

theorem test_meets_daikin_merge : (optGet OptRec.empty .dkMode = .absent) ∧
    (optGet (options [(.dkMode, .num 7)]) .dkMode = .num (7#3).toNat) ∧
    (optGet (options [(.dkOnTimer, .unset)]) .dkOnTimer = .unset) ∧
    optGet (options [(.dkOnTimer, .num 2047)]) .dkOnTimer = .num (2047#11).toNat := by decide

theorem test_meets_daikin : (15 : Reg).val = (14 : Reg).val + 1 ∧
    (∀ f : Field, isMitsuField f = true → optGet (offering .dkPower (.num 1)).opt f = .absent) ∧ (15 : Reg).val = 15 := by
  refine ⟨rfl, fun f => ?_, rfl⟩
  cases f <;> decide

theorem test_meets_daikin_foreign : (14 : Reg).val ≠ 15 ∧ isMitsuField .miOn = true ∧
    optGet (offering .miOn (.num 0)).opt .miOn ≠ .absent := by decide

theorem test_meets_mitsu_temperature : (16 ≤ 16 ∧ 16 ≤ 31 ∧ optGet (options [(.miTemperature, .num 16)]) .miTemperature = .num 16) ∧
    (16 ≤ 31 ∧ 31 ≤ 31 ∧ optGet (options [(.miTemperature, .num 31)]) .miTemperature = .num 31) ∧
    optGet OptRec.empty .miTemperature = .absent := by decide

theorem test_meets_mitsu : (∀ f : Field, isDaikinField f = true → optGet (offering .miOn (.num 1)).opt f = .absent) ∧
    isDaikinField .dkPower = true ∧ optGet (offering .dkPower (.num 0)).opt .dkPower ≠ .absent := by
  refine ⟨fun f => ?_, by decide, by decide⟩
  cases f <;> decide

theorem test_meets_daiko_channel : (127#8).toNat < 128 ∧ 128 ≤ (128#8).toNat := by decide

theorem test_meets_dkngt : (7 < 16 ∧ (12#8).toNat = if 7 ≤ 7 then 7 + 5 else 7 + 8) ∧
    (8 < 16 ∧ (16#8).toNat = if 8 ≤ 7 then 8 + 5 else 8 + 8) := by decide

theorem test_meets_dkon : 100 < 128 ∧ 110 < 128 ∧ (0x80#8).toNat = 100 + 28 ∧ (0x80#8).toNat = 110 + 18 := by decide

theorem test_meets_wenc1 : (∃ p, (holding 8 (zeros 65534)).buf[(8 : Reg)] = some p ∧ isEncoding (-1) = true ∧ p.length + 1 ≤ 65535 ∧
      ((0xFF#8).toNat : Int) = (-1) % 256) ∧
    State.reset.buf[(8 : Reg)] = none ∧ (∃ p, (holding 8 [1]).buf[(8 : Reg)] = some p ∧ isEncoding 14 = false) ∧
    ∃ p, (holding 8 (zeros 65535)).buf[(8 : Reg)] = some p ∧ isEncoding 241 = true ∧ 65535 < p.length + 1 :=
  ⟨⟨_, holding_self _ _, by decide, by rw [zeros_length], by decide⟩, rfl, ⟨_, rfl, by decide⟩, _, holding_self _ _, by decide,
    by rw [zeros_length]; decide⟩

theorem test_meets_wenc4 : (∃ p, (holding 8 (zeros 65531)).buf[(8 : Reg)] = some p ∧ isEncoding (-1) = true ∧ p.length + 4 ≤ 65535 ∧
      (0xFFFFFFFF#32).toInt = -1) ∧
    State.reset.buf[(8 : Reg)] = none ∧ (∃ p, (holding 8 [1]).buf[(8 : Reg)] = some p ∧ isEncoding 0 = false) ∧
    ∃ p, (holding 8 (zeros 65532)).buf[(8 : Reg)] = some p ∧ isEncoding 1 = true ∧ 65535 < p.length + 4 :=
  ⟨⟨_, holding_self _ _, by decide, by rw [zeros_length], by decide⟩, rfl, ⟨_, rfl, by decide⟩, _, holding_self _ _, by decide,
    by rw [zeros_length]; decide⟩

theorem test_meets_bundle_form : ([zeros 255, []] : List Buffer).length ≤ 255 ∧ (∀ c ∈ [zeros 255, []], c.length ≤ 255) ∧
    ([zeros 255, []] : List Buffer)[0]? = some (zeros 255) := by
  refine ⟨by decide, fun c hc => ?_, rfl⟩
  rcases List.mem_pair.1 hc with rfl | rfl
  · rw [zeros_length]
  · exact Nat.zero_le _

theorem test_meets_bundle : (15 : Reg).val + 1 ≤ 16 ∧ ([zeros 255] : List Buffer).length = 1 ∧
    (∀ k, k < 1 → (holding 15 (zeros 255)).buf[(15 : Reg).val + k]? = some ([zeros 255] : List Buffer)[k]?) ∧
    ∀ c ∈ [zeros 255], c.length ≤ 255 := by
  refine ⟨by decide, rfl, fun k hk => ?_, fun c hc => ?_⟩
  case refine_2 => rw [List.mem_singleton.1 hc, zeros_length]
  have hk0 : k = 0 := by omega
  subst hk0
  exact congrArg some (holding_self 15 (zeros 255))

theorem test_meets_bundle_errors : (16 < (15 : Reg).val + 2) ∧
    ((15 : Reg).val + 1 ≤ 16 ∧ (15 : Reg).val ≤ (15 : Reg).val ∧ State.reset.buf[(15 : Reg)] = none) ∧
    ((15 : Reg).val + 1 ≤ 16 ∧ (∀ q : Reg, (15 : Reg).val ≤ q.val → q.val < (15 : Reg).val + 1 → (holding 15 (zeros 256)).buf[q] ≠ none) ∧
      (holding 15 (zeros 256)).buf[(15 : Reg)] = some (zeros 256) ∧ 255 < (zeros 256).length) := by
  refine ⟨by decide, ⟨by decide, by decide, rfl⟩, by decide, fun q h1 h2 => ?_, holding_self _ _, by rw [zeros_length]; decide⟩
  have hq : q = 15 := Fin.ext (by have : (15 : Reg).val = 15 := rfl; omega)
  subst hq
  rw [holding_self]
  nofun

theorem test_meets_delay : (0xF4#8).toNat = (500#16).toNat % 256 ∧ (0x01#8).toNat = (500#16).toNat / 256 := by decide

theorem test_meets_emit : (∃ b, (holding 3 [1]).buf[(3 : Reg)] = some b) ∧ State.reset.buf[(3 : Reg)] = none := ⟨⟨_, rfl⟩, rfl⟩

theorem test_meets_pulse_words : ([0xA5#8] : Buffer)[0]? = some 0xA5#8 ∧ 7 < 8 := by decide

/-- 95 section 3.8: payload A5 has four ones. -/
theorem test_meets_pulse_total :
    4 = (([0xA5] : Buffer).map fun b => ((List.range 8).filter fun j => b.getLsbD j).length).sum := by decide

theorem test_meets_panint : (∃ p, (holding 4 (zeros 1023)).buf[(4 : Reg)] = some p ∧ p.length < 1024) ∧ State.reset.buf[(4 : Reg)] = none ∧
    ∃ p, (holding 4 (zeros 1024)).buf[(4 : Reg)] = some p ∧ 1024 ≤ p.length :=
  ⟨⟨_, holding_self _ _, by rw [zeros_length]; decide⟩, rfl, _, holding_self _ _, by rw [zeros_length]⟩

theorem test_meets_mitsu_optset : (15#16).toNat < 16 ∧ 31 < (32#16).toNat := by decide

/-- For each command with zero bits: its opcode, its zero bits, a word that is the command and a word with one zero bit set. -/
theorem test_meets_encodings :
    ([(0x01, 0x000FFFFF, 0x01300000, 0x01300001), (0x02, 0x000FFF00, 0x02000085, 0x020001FF), (0x03, 0x000F0000, 0x03100DAE, 0x03010000),
      (0x08, 0x00FFFFFF, 0x08000000, 0x08000001), (0x0A, 0x0000FFFF, 0x0A0B0000, 0x0A0B0001), (0x11, 0x000FFFFF, 0x11400000, 0x11480000),
      (0x20, 0x000FFFFF, 0x20000000, 0x20080000), (0x30, 0x000FFFFF, 0x30400000, 0x30400001)] ++
     [(0x40, 0x0000FFFF, 0x400E0000, 0x40008000), (0x41, 0x0000FFFF, 0x41000000, 0x41000001), (0x42, 0x0000FFFF, 0x42000000, 0x42000001),
      (0x43, 0x0000FFFF, 0x43000000, 0x43000001), (0x44, 0x0000FFFF, 0x44010000, 0x44010001), (0x45, 0x0000FFF0, 0x4500000F, 0x45000010),
      (0x46, 0x00008080, 0x46007F7F, 0x46008000), (0x52, 0x0000FFE0, 0x52000011, 0x52000020), (0x53, 0x000F0000, 0x531001F4, 0x53010000),
      (0x60, 0x0000FFFF, 0x60100000, 0x60000001), (0x70, 0x00F00000, 0x70030007, 0x70100000)] : List (BitVec 8 × Word × Word × Word)).all
    (fun x => opcodeOf x.2.2.1 == x.1 && x.2.2.1 &&& x.2.1 == 0 && opcodeOf x.2.2.2 == x.1 && x.2.2.2 &&& x.2.1 != 0) = true := by decide

/-- R211: the numbers of the enumeration, in the order of its table's columns. -/
theorem test_enumeration :
    ([.nec, .sony, .rc5, .rc6, .dish, .sharp, .panasonic, .jvc, .sanyo, .mitsubishi] : List Encoding).map encodingValue =
      [1, 2, 3, 4, 5, 6, 7, 8, 9, 10] ∧
    ([.samsung, .lg, .whynter, .coolix, .daikin, .denon, .unknown, .raw, .panasonicBytes, .delay] : List Encoding).map encodingValue =
      [11, 12, 13, 15, 16, 17, -1, 240, 241, 239] := by decide


end Sys2Proof.Machine
end

section
/-! PROOFS. The statements about the state as a whole (10_state): reset and the reset state (R32, R290), the legal states (R23, R25,
R27, R30), and the two columns of R33, what a command writes and what it reads. -/

namespace Sys2Proof.Machine

/-! ### What a command writes (R33) -/

theorem exec_buf_of_not_mem_destRegs {i : Instr} {s t : State} (h : exec i s = .next t) {r : Reg} (hr : r ∉ destRegs i) :
    t.buf[r] = s.buf[r] := by
  obtain ⟨u, hu, rfl⟩ | ⟨c, rfl⟩ := exec_cases h
  · exact hu.others r hr
  · rfl

theorem exec_opt_of_not_writesOpt {i : Instr} {s t : State} (h : exec i s = .next t) (hi : writesOpt i = false) :
    t.opt = s.opt := by
  obtain ⟨u, hu, rfl⟩ | ⟨c, rfl⟩ := exec_cases h
  · exact hu.optKept hi
  · rfl

theorem exec_sink_of_not_writesSink {i : Instr} {s t : State} (h : exec i s = .next t) (hi : writesSink i = false) :
    t.sink = s.sink := by
  obtain ⟨u, hu, rfl⟩ | ⟨c, rfl⟩ := exec_cases h
  · exact hu.sinkKept hi
  · rfl

theorem exec_host {i : Instr} {s t : State} (h : exec i s = .next t) : t.host = s.host := by
  obtain ⟨u, hu, rfl⟩ | ⟨c, rfl⟩ := exec_cases h
  · exact hu.host
  · rfl

/-- FLT after a command: set already, or the status is not OK (R27, R262). -/
theorem exec_flt {i : Instr} {s t : State} (h : exec i s = .next t) : t.flt = (s.flt || decide (t.err ≠ 0#8)) := by
  obtain ⟨u, hu, rfl⟩ | ⟨c, rfl⟩ := exec_cases h
  · simp [hu.flt]
  · simp [causeCode_ne_zero]

/-- Settles O7: each part of the frame read off what any command can answer. -/
theorem commandsWriteOnlyTheirDestinations : Obligations.CommandsWriteOnlyTheirDestinations := by
  intro i s t h
  exact ⟨fun _ => exec_buf_of_not_mem_destRegs h, exec_opt_of_not_writesOpt h, exec_sink_of_not_writesSink h, exec_host h,
    exec_flt h⟩

/-! ### Reset (R32, R290) -/

@[simp] theorem reset_buf (r : Reg) : State.reset.buf[r] = none := Vector.getElem_replicate r.isLt

theorem step_reset {s : State} {rest : List HostEvent} (h : s.host = .reset :: rest) :
    step s = .next (applyReset { s with host := rest }) := by
  rw [step, nextEvent_cons h]

/-- Settles O1: the reset event and `State.reset` have the same fields but for the host's list. -/
theorem resetLeavesTheResetState : Obligations.ResetLeavesTheResetState := by
  refine ⟨fun s rest h => ?_, reset_buf, optGet_empty, rfl, rfl, rfl, rfl⟩
  exact ⟨_, step_reset h, reset_buf, optGet_empty, rfl, rfl, rfl⟩

/-! ### The legal states (R23, R25, R27, R30) -/

/-- The reset state with any host list is legal. -/
theorem applyReset_legal (s : State) : (applyReset s).Legal where
  bufLength r b h := by simp at h
  optLegal f := by simp [slotLegal]
  errRange := by simp
  errRecorded h := absurd rfl h
  sinkLength := by simp

/-- Settles O2: `State.reset` is what a reset signal leaves of itself. -/
theorem resetStateIsLegal : Obligations.ResetStateIsLegal := applyReset_legal State.reset

/-- The host's list is no part of what makes a state legal. -/
theorem State.Legal.withHost {s : State} (hs : s.Legal) (rest : List HostEvent) : State.Legal { s with host := rest } :=
  ⟨hs.bufLength, hs.optLegal, hs.errRange, hs.errRecorded, hs.sinkLength⟩

/-- What any command can do to OPT (R104 to R107). -/
inductive OptChange (o : OptRec) : OptRec → Prop where
  | kept : OptChange o o
  | cleared : OptChange o OptRec.empty
  | stored (f : Field) (v : Slot) (h : slotLegal f v = true) : OptChange o (optSet o f v)

/-- A change of OPT by a command, from the change its rule makes when it succeeds. -/
theorem respond_optChange {s t : State} {x : Except Cause State} (h : respond s x = .next t)
    (hx : ∀ u, x = .ok u → OptChange s.opt u.opt) : OptChange s.opt t.opt := by
  obtain ⟨u, hu, rfl⟩ | ⟨c, -, rfl⟩ := respond_next_iff.1 h
  · exact hx u hu
  · exact .kept

theorem execOptclr_optChange {s t : State} (h : execOptclr s = .next t) : OptChange s.opt t.opt := by
  refine respond_optChange h fun u hu => ?_
  cases hu
  exact .cleared

theorem execOptset_optChange {fid : BitVec 8} {v : BitVec 16} {s t : State} (h : execOptset fid v s = .next t) :
    OptChange s.opt t.opt := by
  refine respond_optChange h fun u hu => ?_
  split at hu
  · cases hu
  · split at hu
    · cases hu
    · rename_i f _ hv
      cases hu
      have legal : slotLegal f (.num v.toNat) = true := by simpa [slotLegal] using hv
      exact .stored f _ legal

theorem execOptnul_optChange {fid : BitVec 8} {s t : State} (h : execOptnul fid s = .next t) : OptChange s.opt t.opt := by
  refine respond_optChange h fun u hu => ?_
  split at hu
  · cases hu
  · split at hu
    · rename_i f _ hf
      cases hu
      exact .stored f .unset hf
    · cases hu

/-- A rule whose last act is to clear OPT clears it when it succeeds. -/
theorem clearLast_optChange {o : OptRec} {x : Except Cause State} {u : State}
    (h : (x >>= fun t => .ok (clearOpt t)) = .ok u) : OptChange o u.opt := by
  obtain ⟨t, -, ht⟩ := bind_ok_iff.1 h
  cases ht
  exact .cleared

theorem execTpack_optChange {rd : Reg} {s t : State} (h : execTpack rd s = .next t) : OptChange s.opt t.opt := by
  refine respond_optChange h fun u hu => ?_
  obtain ⟨_, -, hu⟩ := bind_ok_iff.1 hu
  exact clearLast_optChange hu

theorem execDaikin_optChange {rd : Reg} {s t : State} (h : execDaikin rd s = .next t) : OptChange s.opt t.opt := by
  refine respond_optChange h fun u hu => ?_
  obtain ⟨_, -, hu⟩ := bind_ok_iff.1 hu
  obtain ⟨_, -, hu⟩ := bind_ok_iff.1 hu
  obtain ⟨_, -, hu⟩ := bind_ok_iff.1 hu
  exact clearLast_optChange hu

theorem execMitsu_optChange {rd : Reg} {s t : State} (h : execMitsu rd s = .next t) : OptChange s.opt t.opt := by
  refine respond_optChange h fun u hu => ?_
  obtain ⟨_, -, hu⟩ := bind_ok_iff.1 hu
  exact clearLast_optChange hu

/-- Any command keeps OPT, clears it or stores a legal slot. -/
theorem exec_optChange {i : Instr} {s t : State} (h : exec i s = .next t) : OptChange s.opt t.opt := by
  cases i with
  | optclr => exact execOptclr_optChange h
  | optset fid v => exact execOptset_optChange h
  | optnul fid => exact execOptnul_optChange h
  | tpack rd => exact execTpack_optChange h
  | daikin rd => exact execDaikin_optChange h
  | mitsu rd => exact execMitsu_optChange h
  | _ =>
    rw [exec_opt_of_not_writesOpt h rfl]
    exact .kept

/-- Every change that a command makes to OPT keeps its slots legal (R25). -/
theorem OptChange.keeps_legal {o o' : OptRec} (h : OptChange o o') (ho : ∀ f, slotLegal f (optGet o f) = true) (f : Field) :
    slotLegal f (optGet o' f) = true := by
  cases h with
  | kept => exact ho f
  | cleared => rw [optGet_empty]; rfl
  | stored g v hv =>
    by_cases hfg : f = g
    · subst hfg
      rwa [optGet_optSet_same]
    · rw [optGet_optSet_other o hfg]
      exact ho f

/-- Any command keeps SINK or adds one entry to it, the bytes of a register (R28, R224). -/
theorem exec_sink_cases {i : Instr} {s t : State} (h : exec i s = .next t) :
    t.sink = s.sink ∨ ∃ r topic b, s.buf[(r : Reg)] = some b ∧ t.sink = s.sink ++ [⟨topic, b⟩] := by
  cases i with
  | emit rs topic =>
    obtain ⟨u, hu, rfl⟩ | ⟨c, -, rfl⟩ := respond_next_iff.1 h
    · obtain ⟨b, hb, hu⟩ := bind_ok_iff.1 hu
      cases hu
      exact .inr ⟨rs, topic, b, readBuf_ok_iff.1 hb, rfl⟩
    · exact .inl rfl
  | _ => exact .inl (exec_sink_of_not_writesSink h rfl)

/-- Any command leaves a register as it was or holding at most BUFCAP bytes (R23). -/
theorem exec_buf_cases {i : Instr} {s t : State} (h : exec i s = .next t) (r : Reg) :
    t.buf[r] = s.buf[r] ∨ ∃ b, t.buf[r] = some b ∧ b.length ≤ bufCap := by
  obtain ⟨u, hu, rfl⟩ | ⟨c, rfl⟩ := exec_cases h
  · by_cases hr : r ∈ destRegs i
    · exact .inr (hu.written r hr)
    · exact .inl (hu.others r hr)
  · exact .inl rfl

theorem exec_err_le {i : Instr} {s t : State} (h : exec i s = .next t) : t.err.toNat ≤ 7 := by
  obtain ⟨u, -, rfl⟩ | ⟨c, rfl⟩ := exec_cases h
  · exact Nat.zero_le 7
  · exact causeCode_le c

/-- Every command keeps a legal state legal. -/
theorem exec_keeps_legal {i : Instr} {s t : State} (hs : s.Legal) (h : exec i s = .next t) : t.Legal where
  bufLength r b hb := by
    obtain hr | ⟨b', hb', hlen⟩ := exec_buf_cases h r
    · exact hs.bufLength r b (hr ▸ hb)
    · obtain rfl : b' = b := Option.some.inj (hb'.symm.trans hb)
      exact hlen
  optLegal := (exec_optChange h).keeps_legal hs.optLegal
  errRange := exec_err_le h
  errRecorded he := by simp [exec_flt h, he]
  sinkLength e he := by
    obtain hk | ⟨r, topic, b, hb, hk⟩ := exec_sink_cases h
    · exact hs.sinkLength e (hk ▸ he)
    · rw [hk, List.mem_append, List.mem_singleton] at he
      obtain he | rfl := he
      · exact hs.sinkLength e he
      · exact hs.bufLength r b hb

/-- The error entry keeps a legal state legal (R262). -/
theorem takeError_legal {s : State} (hs : s.Legal) (c : Cause) : (takeError c s).Legal where
  bufLength := hs.bufLength
  optLegal := hs.optLegal
  errRange := causeCode_le c
  errRecorded _ := takeError_flt c s
  sinkLength := hs.sinkLength

/-- Every command word, legal or not, keeps a legal state legal. -/
theorem execWord_keeps_legal {w : Word} {s t : State} (hs : s.Legal) (h : execWord w s = .next t) : t.Legal := by
  cases hw : decode w with
  | ok i => exact exec_keeps_legal hs (execWord_command hw s ▸ h)
  | error e =>
    obtain rfl : takeError .illegal s = t := by
      simpa [execWord, hw, illegalWord] using h
    exact takeError_legal hs .illegal

/-- Settles O3: a step waits, resets or executes one command word, and each keeps a legal state legal. -/
theorem everyStepKeepsStatesLegal : Obligations.EveryStepKeepsStatesLegal := by
  intro s t hs h
  obtain ⟨-, hstep⟩ | ⟨rest, -, hstep⟩ | ⟨w, rest, -, hstep⟩ := step_cases s <;> rw [hstep] at h
  · cases h
    exact hs
  · cases h
    exact applyReset_legal _
  · exact execWord_keeps_legal (hs.withHost rest) h

/-! ### What a command reads (R33) -/

/-- `u`, computed from `s`, and `v`, computed from `t`, hold the same in the registers `ds` and have added the same to SINK. -/
structure SameResult (ds : List Reg) (s t u v : State) : Prop where
  written : ∀ r ∈ ds, u.buf[r] = v.buf[r]
  added   : ∃ more, u.sink = s.sink ++ more ∧ v.sink = t.sink ++ more

/-- A rule ends alike from `s` and from `t`: with the same result, or with the same cause. -/
inductive SameEnd (ds : List Reg) (s t : State) : Except Cause State → Except Cause State → Prop where
  | ok {u v : State} (h : SameResult ds s t u v) : SameEnd ds s t (.ok u) (.ok v)
  | error (c : Cause) : SameEnd ds s t (.error c) (.error c)

/-- With no register to compare, two states that have added nothing to SINK are the same result. -/
theorem SameResult.of_sink_eq {s t u v : State} (hu : u.sink = s.sink) (hv : v.sink = t.sink) : SameResult [] s t u v :=
  ⟨by simp, [], by simp [hu], by simp [hv]⟩

/-- After the same value is written to the same register, that register agrees too. -/
theorem SameResult.writeBuf {ds : List Reg} {s t u v : State} (h : SameResult ds s t u v) (r : Reg) (b : Buffer) :
    SameEnd (ds ++ [r]) s t (writeBuf u r b) (writeBuf v r b) := by
  by_cases hb : b.length ≤ 65535
  · rw [writeBuf_of_fits hb, writeBuf_of_fits hb]
    refine .ok ⟨fun q hq => ?_, h.added⟩
    by_cases hqr : q = r
    · subst hqr
      rw [setBuf_same, setBuf_same]
    · rw [setBuf_other u hqr, setBuf_other v hqr]
      exact h.written q (by simpa [hqr] using hq)
  · rw [writeBuf_of_long (Nat.lt_of_not_le hb), writeBuf_of_long (Nat.lt_of_not_le hb)]
    exact .error .capacity

/-- A rule that writes one register ends alike from every two states. -/
theorem writeBuf_sameEnd (s t : State) (r : Reg) (b : Buffer) : SameEnd [r] s t (writeBuf s r b) (writeBuf t r b) :=
  (SameResult.of_sink_eq rfl rfl).writeBuf r b

/-- Going on from a common beginning. -/
theorem SameEnd.bind {ds ds' : List Reg} {s t : State} {x y : Except Cause State} {f g : State → Except Cause State}
    (h : SameEnd ds s t x y) (hfg : ∀ u v, SameResult ds s t u v → SameEnd ds' s t (f u) (g v)) :
    SameEnd ds' s t (x >>= f) (y >>= g) := by
  cases h with
  | ok h => exact hfg _ _ h
  | error c => exact .error c

/-- Going on from one and the same value. -/
theorem sameEnd_bind {α : Type} {ds : List Reg} {s t : State} (x : Except Cause α) {f g : α → Except Cause State}
    (hfg : ∀ a, SameEnd ds s t (f a) (g a)) : SameEnd ds s t (x >>= f) (x >>= g) := by
  cases x with
  | ok a => exact hfg a
  | error c => exact .error c

theorem SameEnd.clearLast {ds : List Reg} {s t : State} {x y : Except Cause State} (h : SameEnd ds s t x y) :
    SameEnd ds s t (x >>= fun u => .ok (clearOpt u)) (y >>= fun v => .ok (clearOpt v)) :=
  h.bind fun _ _ h => .ok ⟨h.written, h.added⟩

theorem readBuf_congr {s t : State} {r : Reg} (h : s.buf[r] = t.buf[r]) : readBuf s r = readBuf t r := by
  rw [readBuf, readBuf, h]

theorem readRun_congr {s t : State} {r n : Nat} (h : ∀ q : Reg, r ≤ q.val → q.val < r + n → s.buf[q] = t.buf[q]) :
    readRun s r n = readRun t r n := by
  induction n generalizing r with
  | zero => rfl
  | succ n ih =>
    have rest : readRun s (r + 1) n = readRun t (r + 1) n := ih fun q h1 h2 => h q (by omega) (by omega)
    rw [readRun, readRun, rest]
    split
    · next hr => rw [readBuf_congr (h ⟨r, hr⟩ (Nat.le_refl r) (by simp))]
    · rfl

/-- A rule that first reads a register on which the two states agree. -/
theorem sameEnd_readBuf {ds : List Reg} {s t : State} {r : Reg} (h : s.buf[r] = t.buf[r]) {f g : Buffer → Except Cause State}
    (hfg : ∀ b, SameEnd ds s t (f b) (g b)) : SameEnd ds s t (readBuf s r >>= f) (readBuf t r >>= g) := by
  rw [readBuf_congr h]
  exact sameEnd_bind _ hfg

theorem appendTo_sameEnd {s t : State} {rd : Reg} (h : s.buf[rd] = t.buf[rd]) (more : Buffer) :
    SameEnd [rd] s t (appendTo rd more s) (appendTo rd more t) :=
  sameEnd_readBuf h fun _ => writeBuf_sameEnd s t rd _

/-- A command ends alike from `s` and from `t`. -/
def EndsAlike (i : Instr) (s t : State) : Prop :=
  ∃ rule : State → Except Cause State, (∀ s, exec i s = respond s (rule s)) ∧ SameEnd (destRegs i) s t (rule s) (rule t)

theorem optset_endsAlike (fid : BitVec 8) (v : BitVec 16) (s t : State) : EndsAlike (.optset fid v) s t := by
  refine ⟨_, fun _ => rfl, ?_⟩
  split
  · exact .error .option
  · split
    · exact .error .option
    · exact .ok (.of_sink_eq rfl rfl)

theorem optnul_endsAlike (fid : BitVec 8) (s t : State) : EndsAlike (.optnul fid) s t := by
  refine ⟨_, fun _ => rfl, ?_⟩
  split
  · exact .error .option
  · split
    · exact .ok (.of_sink_eq rfl rfl)
    · exact .error .option

theorem tpack_endsAlike (rd : Reg) {s t : State} (h : s.opt = t.opt) : EndsAlike (.tpack rd) s t := by
  refine ⟨_, fun _ => rfl, ?_⟩
  rw [h]
  exact sameEnd_bind _ fun _ => (writeBuf_sameEnd s t rd _).clearLast

theorem daikin_endsAlike (rd : Reg) {s t : State} (h : s.opt = t.opt) : EndsAlike (.daikin rd) s t := by
  refine ⟨_, fun _ => rfl, ?_⟩
  rw [h]
  refine sameEnd_bind _ fun _ => sameEnd_bind _ fun _ => (writeBuf_sameEnd s t rd _).bind fun u v huv => ?_
  exact (huv.writeBuf (rd + 1) _).clearLast

theorem mitsu_endsAlike (rd : Reg) {s t : State} (h : s.opt = t.opt) : EndsAlike (.mitsu rd) s t := by
  refine ⟨_, fun _ => rfl, ?_⟩
  rw [h]
  exact sameEnd_bind _ fun _ => (writeBuf_sameEnd s t rd _).clearLast

theorem bundle_endsAlike (rd rs : Reg) (n : Nat) {s t : State} (h : ∀ r ∈ sourceRegs (.bundle rd rs n), s.buf[r] = t.buf[r]) :
    EndsAlike (.bundle rd rs n) s t := by
  have run : readRun s rs.val n = readRun t rs.val n := readRun_congr fun q h1 h2 =>
    h q (List.mem_filter.2 ⟨List.mem_finRange q, by simpa using ⟨h1, h2⟩⟩)
  refine ⟨_, fun _ => rfl, ?_⟩
  rw [run]
  exact sameEnd_bind _ fun _ => sameEnd_bind _ fun _ => sameEnd_bind _ fun _ => writeBuf_sameEnd s t rd _

theorem emit_endsAlike (rs : Reg) (topic : BitVec 16) {s t : State} (h : s.buf[rs] = t.buf[rs]) :
    EndsAlike (.emit rs topic) s t :=
  ⟨_, fun _ => rfl, sameEnd_readBuf h fun _ => .ok ⟨by simp [destRegs], _, rfl, rfl⟩⟩

/-- A command that only writes one register, with bytes made of its operands and CFG, ends alike from every two states. -/
theorem endsAlike_of_writeBuf {i : Instr} {rd : Reg} (b : Buffer) (hd : destRegs i = [rd])
    (h : ∀ s, exec i s = respond s (writeBuf s rd b)) (s t : State) : EndsAlike i s t :=
  ⟨_, h, hd ▸ writeBuf_sameEnd s t rd b⟩

/-- Every command ends alike from two states that agree on what it reads. -/
theorem exec_endsAlike {i : Instr} {s t : State} (hbuf : ∀ r ∈ sourceRegs i, s.buf[r] = t.buf[r])
    (hopt : readsOpt i = true → s.opt = t.opt) : EndsAlike i s t := by
  cases i with
  | bclr rd => exact endsAlike_of_writeBuf [] rfl (fun _ => rfl) s t
  | appb rd b => exact ⟨_, fun _ => rfl, appendTo_sameEnd (hbuf rd (.head _)) _⟩
  | appw rd v => exact ⟨_, fun _ => rfl, appendTo_sameEnd (hbuf rd (.head _)) _⟩
  | optclr => exact ⟨fun s => .ok (clearOpt s), fun _ => rfl, .ok (.of_sink_eq rfl rfl)⟩
  | optset fid v => exact optset_endsAlike fid v s t
  | optnul fid => exact optnul_endsAlike fid s t
  | cksum rd rs start len =>
    exact ⟨_, fun _ => rfl,
      sameEnd_readBuf (hbuf rs (.head _)) fun _ => sameEnd_bind _ fun _ => writeBuf_sameEnd s t rd _⟩
  | tpack rd => exact tpack_endsAlike rd (hopt rfl)
  | daikin rd => exact daikin_endsAlike rd (hopt rfl)
  | mitsu rd => exact mitsu_endsAlike rd (hopt rfl)
  | dkoff rd ch => exact endsAlike_of_writeBuf (daikoFrame ch [Config.cfg.daikoCodeOff]) rfl (fun _ => rfl) s t
  | dktog rd ch => exact endsAlike_of_writeBuf (daikoFrame ch [Config.cfg.daikoCodeToggle]) rfl (fun _ => rfl) s t
  | dkwht rd ch => exact endsAlike_of_writeBuf (daikoFrame ch [Config.cfg.daikoCodeWhite]) rfl (fun _ => rfl) s t
  | dkful rd ch => exact endsAlike_of_writeBuf (daikoFrame ch [Config.cfg.daikoCodeFull]) rfl (fun _ => rfl) s t
  | dkwrm rd ch => exact endsAlike_of_writeBuf (daikoFrame ch [Config.cfg.daikoCodeWarm]) rfl (fun _ => rfl) s t
  | dkngt rd ch i => exact endsAlike_of_writeBuf (daikoFrame ch [BitVec.ofNat 8 (nightCode i)]) rfl (fun _ => rfl) s t
  | dkon rd ch w b =>
    exact endsAlike_of_writeBuf
      (daikoFrame ch [BitVec.ofNat 8 (w + onWarmthAdd), BitVec.ofNat 8 (b + onBrightAdd)]) rfl (fun _ => rfl) s t
  | wenc1 rd rs tag =>
    exact ⟨_, fun _ => rfl,
      sameEnd_readBuf (hbuf rs (.head _)) fun _ => sameEnd_bind _ fun _ => writeBuf_sameEnd s t rd _⟩
  | wenc4 rd rs tag =>
    exact ⟨_, fun _ => rfl,
      sameEnd_readBuf (hbuf rs (.head _)) fun _ => sameEnd_bind _ fun _ => writeBuf_sameEnd s t rd _⟩
  | bundle rd rs n => exact bundle_endsAlike rd rs n hbuf
  | delay rd ms => exact endsAlike_of_writeBuf (delayCommand ms) rfl (fun _ => rfl) s t
  | panint rd rs => exact ⟨_, fun _ => rfl, sameEnd_readBuf (hbuf rs (.head _)) fun _ => writeBuf_sameEnd s t rd _⟩
  | emit rs topic => exact emit_endsAlike rs topic (hbuf rs (.head _))


/-- Settles O8: the two runs end with the same cause, or with the same result and status OK. -/
theorem resultsDependOnlyOnTheSources : Obligations.ResultsDependOnlyOnTheSources := by
  intro i s t s' t' hbuf hopt hs ht
  obtain ⟨rule, hrule, hend⟩ := exec_endsAlike hbuf hopt
  rw [hrule] at hs ht
  generalize rule s = x, rule t = y at hs ht hend
  cases hend with
  | ok h =>
    cases hs
    cases ht
    exact ⟨rfl, fun _ => ⟨h.written, h.added⟩⟩
  | error c =>
    cases hs
    cases ht
    exact ⟨rfl, fun h0 => absurd h0 (causeCode_ne_zero c)⟩

end Sys2Proof.Machine
end

section
/-! PROOFS. The command word as a table (30_encoding R71 to R75): what distinguishes the 23 commands in the decoder is the opcode byte,
the zero bits and where the operands lie, and these make the rows of the opcode table. From there, what decoding does with an encoded
command, what encoding does with a decoded one, and which bits have no part in either. -/

namespace Sys2Proof

/-! ### The rows of the table and the decoder -/

/-- The bits that R72 calls zero in the word of a command. -/
def zeroBits : Instr → Word
  | .bclr _ | .tpack _ | .daikin _ | .mitsu _ => 0x000FFFFF#32
  | .appb _ _ => 0x000FFF00#32
  | .appw _ _ | .delay _ _ => 0x000F0000#32
  | .optclr => 0x00FFFFFF#32
  | .optset _ _ | .cksum _ _ _ _ | .wenc1 _ _ _ | .wenc4 _ _ _ => 0#32
  | .optnul _ | .dkoff _ _ | .dktog _ _ | .dkwht _ _ | .dkful _ _ | .dkwrm _ _ | .panint _ _ => 0x0000FFFF#32
  | .dkngt _ _ _ => 0x0000FFF0#32
  | .dkon _ _ _ _ => 0x00008080#32
  | .bundle _ _ _ => 0x0000FFE0#32
  | .emit _ _ => 0x00F00000#32

/-- The same command with the operands that a word holds in its places (R72). -/
def withOperands : Instr → Word → Instr
  | .bclr _, w => .bclr (rdOf w)
  | .appb _ _, w => .appb (rdOf w) (w.extractLsb' 0 8)
  | .appw _ _, w => .appw (rdOf w) (immOf w)
  | .optclr, _ => .optclr
  | .optset _ _, w => .optset (fidOf w) (immOf w)
  | .optnul _, w => .optnul (fidOf w)
  | .cksum _ _ _ _, w => .cksum (rdOf w) (rsOf w) (w.extractLsb' 8 8).toNat (w.extractLsb' 0 8).toNat
  | .tpack _, w => .tpack (rdOf w)
  | .daikin _, w => .daikin (rdOf w)
  | .mitsu _, w => .mitsu (rdOf w)
  | .dkoff _ _, w => .dkoff (rdOf w) (chOf w)
  | .dktog _ _, w => .dktog (rdOf w) (chOf w)
  | .dkwht _ _, w => .dkwht (rdOf w) (chOf w)
  | .dkful _ _, w => .dkful (rdOf w) (chOf w)
  | .dkwrm _ _, w => .dkwrm (rdOf w) (chOf w)
  | .dkngt _ _ _, w => .dkngt (rdOf w) (chOf w) (w.extractLsb' 0 4).toNat
  | .dkon _ _ _ _, w => .dkon (rdOf w) (chOf w) (w.extractLsb' 8 7).toNat (w.extractLsb' 0 7).toNat
  | .wenc1 _ _ _, w => .wenc1 (rdOf w) (rsOf w) (immOf w).toInt
  | .wenc4 _ _ _, w => .wenc4 (rdOf w) (rsOf w) (immOf w).toInt
  | .bundle _ _ _, w => .bundle (rdOf w) (rsOf w) (w.extractLsb' 0 5).toNat
  | .delay _ _, w => .delay (rdOf w) (immOf w)
  | .panint _ _, w => .panint (rdOf w) (rsOf w)
  | .emit _ _, w => .emit (rsOf w) (immOf w)

/-- The decoder at the opcode of a command: its zero bits are checked, its operands read. -/
theorem decode_of_opcode {i : Instr} {w : Word} (h : opcodeOf w = opcodeOf (encode i)) :
    decode w = requireZero w (zeroBits i) (withOperands i w) := by
  cases i with
  | bclr => exact decode_bclr (h.trans (opcodeOf_wordOf ..))
  | appb => exact decode_appb (h.trans (opcodeOf_wordOf ..))
  | appw => exact decode_appw (h.trans (opcodeOf_wordOf ..))
  | optclr => exact decode_optclr (h.trans (opcodeOf_wordOf ..))
  | optset => exact decode_optset (h.trans (opcodeOf_wordOf ..))
  | optnul => exact decode_optnul (h.trans (opcodeOf_wordOf ..))
  | cksum => exact decode_cksum (h.trans (opcodeOf_wordOf ..))
  | tpack => exact decode_tpack (h.trans (opcodeOf_wordOf ..))
  | daikin => exact decode_daikin (h.trans (opcodeOf_wordOf ..))
  | mitsu => exact decode_mitsu (h.trans (opcodeOf_wordOf ..))
  | dkoff => exact decode_dkoff (h.trans (opcodeOf_wordOf ..))
  | dktog => exact decode_dktog (h.trans (opcodeOf_wordOf ..))
  | dkwht => exact decode_dkwht (h.trans (opcodeOf_wordOf ..))
  | dkful => exact decode_dkful (h.trans (opcodeOf_wordOf ..))
  | dkwrm => exact decode_dkwrm (h.trans (opcodeOf_wordOf ..))
  | dkngt => exact decode_dkngt (h.trans (opcodeOf_wordOf ..))
  | dkon => exact decode_dkon (h.trans (opcodeOf_wordOf ..))
  | wenc1 => exact decode_wenc1 (h.trans (opcodeOf_wordOf ..))
  | wenc4 => exact decode_wenc4 (h.trans (opcodeOf_wordOf ..))
  | bundle => exact decode_bundle (h.trans (opcodeOf_wordOf ..))
  | delay => exact decode_delay (h.trans (opcodeOf_wordOf ..))
  | panint => exact decode_panint (h.trans (opcodeOf_wordOf ..))
  | emit => exact decode_emit (h.trans (opcodeOf_wordOf ..))

/-- The row of the opcode table that a command's opcode, zero bits and mnemonic make: the mask holds the opcode byte and the zero
bits, the pattern the opcode alone (R74). -/
def tableRow (i : Instr) : OpcodeRow where
  mnemonic := mnemonicOf i
  pattern  := wordOf (opcodeOf (encode i)) 0#8 0#16
  mask     := wordOf 0xFF#8 (fidOf (zeroBits i)) (immOf (zeroBits i))

/-- A word matches the row of a command when it has the command's opcode and 0 in its zero bits. -/
theorem matches_tableRow_iff {i : Instr} {w : Word} :
    w &&& (tableRow i).mask = (tableRow i).pattern ↔ opcodeOf w = opcodeOf (encode i) ∧ w &&& zeroBits i = 0#32 := by
  have hop : opcodeOf (zeroBits i) = 0#8 := by cases i <;> (simp only [zeroBits]; decide)
  have hbyte : opcodeOf w &&& 0xFF#8 = opcodeOf w := BitVec.and_allOnes
  rw [and_eq_zero_iff hop, tableRow]
  conv_lhs => rw [← wordOf_eta w]
  rw [wordOf_and, wordOf_inj, hbyte]

/-- The operands have no part in a command's row. -/
theorem tableRow_withOperands (i : Instr) (w : Word) : tableRow (withOperands i w) = tableRow i := by
  cases i <;> simp only [tableRow, withOperands, encode, opcodeOf_wordOf] <;> rfl

theorem withOperands_withOperands (i : Instr) (v w : Word) : withOperands (withOperands i v) w = withOperands i w := by
  cases i <;> rfl

/-- One command for each opcode of R73: the one whose operand bits are all 0. -/
def plainCommands : List Instr := opcodes.filterMap fun op => (decode (wordOf op 0#8 0#16)).toOption

theorem opcodes_eq_map_plainCommands : opcodes = plainCommands.map fun i => opcodeOf (encode i) := by decide

theorem opcodeRows_eq_map_plainCommands : opcodeRows = plainCommands.map tableRow := by decide

/-- A word that decodes matches the row of its command and holds the command's operands. -/
theorem of_decode_ok {w : Word} {i : Instr} (h : decode w = .ok i) :
    tableRow i ∈ opcodeRows ∧ w &&& (tableRow i).mask = (tableRow i).pattern ∧ withOperands i w = i := by
  have hop := opcode_mem_of_decode h
  rw [opcodes_eq_map_plainCommands] at hop
  obtain ⟨j, hj, hjw⟩ := List.mem_map.1 hop
  obtain ⟨hzero, rfl⟩ := requireZero_ok_iff.1 ((decode_of_opcode hjw.symm).symm.trans h)
  rw [tableRow_withOperands, withOperands_withOperands, opcodeRows_eq_map_plainCommands]
  exact ⟨List.mem_map_of_mem hj, matches_tableRow_iff.2 ⟨hjw.symm, hzero⟩, rfl⟩

/-- A word that matches a row of the table decodes. -/
theorem decode_ok_of_row {w : Word} {row : OpcodeRow} (hrow : row ∈ opcodeRows) (hmatch : w &&& row.mask = row.pattern) :
    ∃ i, decode w = .ok i := by
  rw [opcodeRows_eq_map_plainCommands] at hrow
  obtain ⟨j, -, rfl⟩ := List.mem_map.1 hrow
  obtain ⟨hop, hzero⟩ := matches_tableRow_iff.1 hmatch
  exact ⟨withOperands j w, (decode_of_opcode hop).trans (requireZero_ok_iff.2 ⟨hzero, rfl⟩)⟩

/-- A word determines its row by its opcode byte (R74). -/
theorem opcodeRow_unique {w : Word} {a b : OpcodeRow} (ha : a ∈ opcodeRows) (hb : b ∈ opcodeRows)
    (hwa : w &&& a.mask = a.pattern) (hwb : w &&& b.mask = b.pattern) : a = b := by
  have distinct : (opcodeRows.map fun row => opcodeOf row.pattern).Nodup := by decide
  have opcode_of_match : ∀ row ∈ opcodeRows, w &&& row.mask = row.pattern → opcodeOf row.pattern = opcodeOf w := by
    intro row hrow hmatch
    rw [opcodeRows_eq_map_plainCommands] at hrow
    obtain ⟨j, -, rfl⟩ := List.mem_map.1 hrow
    exact (opcodeOf_wordOf ..).trans (matches_tableRow_iff.1 hmatch).1.symm
  exact List.inj_on_of_nodup_map distinct ha hb ((opcode_of_match a ha hwa).trans (opcode_of_match b hb hwb).symm)

theorem not_decode_ok {w : Word} (h : ∀ row ∈ opcodeRows, w &&& row.mask ≠ row.pattern) : ∃ e, decode w = .error e := by
  cases hw : decode w with
  | ok i =>
    obtain ⟨hrow, hmatch, -⟩ := of_decode_ok hw
    exact absurd hmatch (h _ hrow)
  | error e => exact ⟨e, rfl⟩

/-! ### Decoding an encoded command -/

/-- Every command's word matches the row of the table that carries its mnemonic. -/
theorem encode_matches_row (i : Instr) : Laws.EncodesItsRow.Statement i := by
  cases i with
  | bclr rd => exact Laws.EncodesItsRow.bclr rd
  | appb rd imm8 => exact Laws.EncodesItsRow.appb rd imm8
  | appw rd imm16 => exact Laws.EncodesItsRow.appw rd imm16
  | optclr => exact Laws.EncodesItsRow.optclr
  | optset fid v => exact Laws.EncodesItsRow.optset fid v
  | optnul fid => exact Laws.EncodesItsRow.optnul fid
  | cksum rd rs start len => exact Laws.EncodesItsRow.cksum rd rs start len
  | tpack rd => exact Laws.EncodesItsRow.tpack rd
  | daikin rd => exact Laws.EncodesItsRow.daikin rd
  | mitsu rd => exact Laws.EncodesItsRow.mitsu rd
  | dkoff rd ch => exact Laws.EncodesItsRow.dkoff rd ch
  | dktog rd ch => exact Laws.EncodesItsRow.dktog rd ch
  | dkwht rd ch => exact Laws.EncodesItsRow.dkwht rd ch
  | dkful rd ch => exact Laws.EncodesItsRow.dkful rd ch
  | dkwrm rd ch => exact Laws.EncodesItsRow.dkwrm rd ch
  | dkngt rd ch intensity => exact Laws.EncodesItsRow.dkngt rd ch intensity
  | dkon rd ch warmth brightness => exact Laws.EncodesItsRow.dkon rd ch warmth brightness
  | wenc1 rd rs tag => exact Laws.EncodesItsRow.wenc1 rd rs tag
  | wenc4 rd rs tag => exact Laws.EncodesItsRow.wenc4 rd rs tag
  | bundle rd rs n => exact Laws.EncodesItsRow.bundle rd rs n
  | delay rd ms => exact Laws.EncodesItsRow.delay rd ms
  | panint rd rs => exact Laws.EncodesItsRow.panint rd rs
  | emit rs topic => exact Laws.EncodesItsRow.emit rs topic

/-! The fields of a word read back from its parts -/

@[simp] theorem rdOf_wordOf_midRegs (op : BitVec 8) (rd rs : Reg) (imm : BitVec 16) :
    rdOf (wordOf op (midRegs rd rs) imm) = rd := by
  rw [rdOf_eq, fidOf_wordOf, midRegs_high]

@[simp] theorem rsOf_wordOf_midRegs (op : BitVec 8) (rd rs : Reg) (imm : BitVec 16) :
    rsOf (wordOf op (midRegs rd rs) imm) = rs := by
  rw [rsOf_eq, fidOf_wordOf, midRegs_low]

@[simp] theorem rdOf_wordOf_midDaiko (op : BitVec 8) (rd : Reg) (ch : BitVec 1) (imm : BitVec 16) :
    rdOf (wordOf op (midDaiko rd ch) imm) = rd := by
  rw [rdOf_eq, fidOf_wordOf, midDaiko_high]

@[simp] theorem chOf_wordOf_midDaiko (op : BitVec 8) (rd : Reg) (ch : BitVec 1) (imm : BitVec 16) :
    chOf (wordOf op (midDaiko rd ch) imm) = ch := by
  rw [chOf_eq, fidOf_wordOf, midDaiko_low]

/-- A slice of the immediate of a word. -/
theorem extract_wordOf {op mid : BitVec 8} {imm : BitVec 16} {b n : Nat} (h : b + n ≤ 16) :
    (wordOf op mid imm).extractLsb' b n = imm.extractLsb' b n := by
  rw [extract_low_eq _ b n h, immOf_wordOf]

/-- A tag operand is read back from its 16 bits. -/
theorem toInt_ofInt_of_wellFormed {tag : Int} (h : (-32768 ≤ tag && tag < 32768) = true) :
    (BitVec.ofInt 16 tag).toInt = tag := by
  rw [Bool.and_eq_true, decide_eq_true_iff, decide_eq_true_iff] at h
  exact BitVec.toInt_ofInt_eq_self (by decide) h.1 h.2

/-- A number operand that fits its bit field is read back from it. -/
theorem toNat_extract_of_eq_ofNat {w : Word} {b n x : Nat} (h : w.extractLsb' b n = BitVec.ofNat n x) (hx : x < 2 ^ n) :
    (w.extractLsb' b n).toNat = x := by
  rw [h, BitVec.toNat_ofNat, Nat.mod_eq_of_lt hx]

/-- The word of a well-formed command holds the command's own operands. -/
theorem withOperands_encode {i : Instr} (h : i.wellFormed = true) : withOperands i (encode i) = i := by
  cases i with
  | appb rd imm8 =>
    have himm : (encode (.appb rd imm8)).extractLsb' 0 8 = imm8 :=
      (extract_wordOf (by decide)).trans BitVec.extractLsb'_append_eq_right
    rw [withOperands, himm]
    simp [encode]
  | cksum rd rs start len =>
    obtain ⟨hstart, hlen⟩ : start < 256 ∧ len < 256 := by simpa [Instr.wellFormed] using h
    have hs : ((encode (.cksum rd rs start len)).extractLsb' 8 8).toNat = start :=
      toNat_extract_of_eq_ofNat ((extract_wordOf (by decide)).trans BitVec.extractLsb'_append_eq_left) hstart
    have hl : ((encode (.cksum rd rs start len)).extractLsb' 0 8).toNat = len :=
      toNat_extract_of_eq_ofNat ((extract_wordOf (by decide)).trans BitVec.extractLsb'_append_eq_right) hlen
    rw [withOperands, hs, hl]
    simp [encode]
  | dkngt rd ch intensity =>
    have hintensity : intensity < 16 := by simpa [Instr.wellFormed] using h
    have hi : ((encode (.dkngt rd ch intensity)).extractLsb' 0 4).toNat = intensity :=
      toNat_extract_of_eq_ofNat ((extract_wordOf (by decide)).trans BitVec.extractLsb'_append_eq_right) hintensity
    rw [withOperands, hi]
    simp [encode]
  | dkon rd ch warmth brightness =>
    obtain ⟨hwarmth, hbrightness⟩ : warmth < 128 ∧ brightness < 128 := by simpa [Instr.wellFormed] using h
    have hw : ((encode (.dkon rd ch warmth brightness)).extractLsb' 8 7).toNat = warmth :=
      toNat_extract_of_eq_ofNat ((extract_wordOf (by decide)).trans <| (BitVec.extractLsb'_append_eq_of_le (by decide)).trans <|
        (BitVec.extractLsb'_append_eq_of_le (by decide)).trans BitVec.extractLsb'_append_eq_right) hwarmth
    have hb : ((encode (.dkon rd ch warmth brightness)).extractLsb' 0 7).toNat = brightness :=
      toNat_extract_of_eq_ofNat ((extract_wordOf (by decide)).trans BitVec.extractLsb'_append_eq_right) hbrightness
    rw [withOperands, hw, hb]
    simp [encode]
  | wenc1 | wenc4 => simp [encode, withOperands, toInt_ofInt_of_wellFormed h]
  | bundle rd rs n =>
    have hlt : n < 32 := by simpa [Instr.wellFormed] using h
    have hn : ((encode (.bundle rd rs n)).extractLsb' 0 5).toNat = n :=
      toNat_extract_of_eq_ofNat ((extract_wordOf (by decide)).trans BitVec.extractLsb'_append_eq_right) hlt
    rw [withOperands, hn]
    simp [encode]
  | _ => simp [encode, withOperands]

theorem decode_encode {i : Instr} (h : i.wellFormed = true) : decode (encode i) = .ok i := by
  obtain ⟨row, hrow, -, hmatch⟩ := encode_matches_row i
  obtain ⟨j, hj⟩ := decode_ok_of_row hrow hmatch
  obtain ⟨-, hji⟩ := requireZero_ok_iff.1 ((decode_of_opcode rfl).symm.trans hj)
  rw [hj, hji, withOperands_encode h]

/-! ### Encoding a decoded command -/

/-- A command read from a word fits its bit fields. -/
theorem wellFormed_withOperands (i : Instr) (w : Word) : (withOperands i w).wellFormed = true := by
  have tag_fits (v : BitVec 16) : (-32768 ≤ v.toInt && v.toInt < 32768) = true :=
    Bool.and_eq_true_iff.2 ⟨decide_eq_true v.le_toInt, decide_eq_true v.toInt_lt⟩
  cases i with
  | cksum | dkon => exact Bool.and_eq_true_iff.2 ⟨decide_eq_true (BitVec.isLt _), decide_eq_true (BitVec.isLt _)⟩
  | wenc1 | wenc4 => exact tag_fits (immOf w)
  | dkngt | bundle => exact decide_eq_true (BitVec.isLt _)
  | _ => rfl

/-! The middle byte put together again from the fields read from it -/

theorem midRegs_rdOf_rsOf (w : Word) : midRegs (rdOf w) (rsOf w) = fidOf w := by
  have key : ∀ m : BitVec 8, midRegs (m.extractLsb' 4 4).toFin (m.extractLsb' 0 4).toFin = m := by decide
  rw [rdOf_eq, rsOf_eq, key]

theorem midRegs_rdOf_zero {w : Word} (h : fidOf w &&& 0x0F#8 = 0#8) : midRegs (rdOf w) 0 = fidOf w := by
  have key : ∀ m : BitVec 8, m &&& 0x0F#8 = 0#8 → midRegs (m.extractLsb' 4 4).toFin 0 = m := by decide
  rw [rdOf_eq, key _ h]

theorem midRegs_zero_rsOf {w : Word} (h : fidOf w &&& 0xF0#8 = 0#8) : midRegs 0 (rsOf w) = fidOf w := by
  have key : ∀ m : BitVec 8, m &&& 0xF0#8 = 0#8 → midRegs 0 (m.extractLsb' 0 4).toFin = m := by decide
  rw [rsOf_eq, key _ h]

theorem midDaiko_rdOf_chOf (w : Word) : midDaiko (rdOf w) (chOf w) = fidOf w &&& 0xF1#8 := by
  have key : ∀ m : BitVec 8, midDaiko (m.extractLsb' 4 4).toFin (m.extractLsb' 0 1) = m &&& 0xF1#8 := by decide
  rw [rdOf_eq, chOf_eq, key]

/-! The immediate put together again from the slices read from it -/

/-- The bits of a word's immediate under which a mask is all ones are 0 when the masked immediate is. -/
theorem extract_eq_zero_of_immOf_and {w : Word} {m : BitVec 16} (b n : Nat) (h : immOf w &&& m = 0#16) (hbn : b + n ≤ 16)
    (hm : m.extractLsb' b n = BitVec.allOnes n) : w.extractLsb' b n = 0#n := by
  have hslice := congrArg (BitVec.extractLsb' b n) h
  rwa [BitVec.extractLsb'_and, hm, BitVec.and_allOnes, BitVec.extractLsb'_zero, ← extract_low_eq w b n hbn] at hslice

theorem zero_append_extract {m n : Nat} {w : Word} (h : w.extractLsb' n m = 0#m) :
    0#m ++ w.extractLsb' 0 n = w.extractLsb' 0 (m + n) := by
  rw [← h]
  exact BitVec.extractLsb'_append_extractLsb'_eq_extractLsb' (Nat.zero_add n).symm

theorem append_extract_halves (w : Word) : w.extractLsb' 8 8 ++ w.extractLsb' 0 8 = immOf w :=
  BitVec.extractLsb'_append_extractLsb'_eq_extractLsb' rfl

/-- The immediate of DKON: two 7-bit operands, each under a zero bit. -/
theorem append_extract_dkon {w : Word} (h : immOf w &&& 0x8080#16 = 0#16) :
    0#1 ++ w.extractLsb' 8 7 ++ 0#1 ++ w.extractLsb' 0 7 = immOf w := by
  have h15 : w.extractLsb' 15 1 = 0#1 := extract_eq_zero_of_immOf_and 15 1 h (by decide) (by decide)
  have h7 : w.extractLsb' 7 1 = 0#1 := extract_eq_zero_of_immOf_and 7 1 h (by decide) (by decide)
  have high : 0#1 ++ w.extractLsb' 8 7 = w.extractLsb' 8 8 := by
    rw [← h15]
    exact BitVec.extractLsb'_append_extractLsb'_eq_extractLsb' rfl
  have upper : 0#1 ++ w.extractLsb' 8 7 ++ 0#1 = w.extractLsb' 7 9 := by
    rw [high, ← h7]
    exact BitVec.extractLsb'_append_extractLsb'_eq_extractLsb' rfl
  rw [upper]
  exact BitVec.extractLsb'_append_extractLsb'_eq_extractLsb' rfl

/-! The word put together again from its three parts -/

/-- The zero bits in the middle byte and in the immediate. -/
theorem zero_parts {w : Word} (z : Word) {m : BitVec 8} {v : BitVec 16} (h : w &&& z = 0#32) (hz : z = wordOf 0#8 m v) :
    fidOf w &&& m = 0#8 ∧ immOf w &&& v = 0#16 := by
  subst hz
  simpa using (and_eq_zero_iff (opcodeOf_wordOf ..)).1 h

theorem immOf_eq_zero {w : Word} (h : immOf w &&& 0xFFFF#16 = 0#16) : 0#16 = immOf w := by
  rw [← h]
  exact BitVec.and_allOnes

/-- A word without ignored bits. -/
theorem wordOf_eq_of_parts {w : Word} {op mid : BitVec 8} {imm : BitVec 16} (hop : opcodeOf w = op) (hmid : mid = fidOf w)
    (himm : imm = immOf w) : wordOf op mid imm = w &&& ~~~0#32 := by
  rw [← hop, hmid, himm, wordOf_eta, BitVec.not_zero, BitVec.and_allOnes]

/-- A word of a command with one register and no other operand. -/
theorem wordOf_midRegs_rdOf_eq {w : Word} {op : BitVec 8} (hop : opcodeOf w = op) (h : w &&& 0x000FFFFF#32 = 0#32) :
    wordOf op (midRegs (rdOf w) 0) 0#16 = w &&& ~~~0#32 := by
  obtain ⟨hmid, himm⟩ := zero_parts (m := 0x0F#8) (v := 0xFFFF#16) _ h (by decide)
  exact wordOf_eq_of_parts hop (midRegs_rdOf_zero hmid) (immOf_eq_zero himm)

/-- A word of a Daiko command, without its ignored bits. -/
theorem wordOf_midDaiko_eq {w : Word} {op : BitVec 8} {imm : BitVec 16} (hop : opcodeOf w = op) (himm : imm = immOf w) :
    wordOf op (midDaiko (rdOf w) (chOf w)) imm = w &&& ~~~0x000E0000#32 := by
  have hmask : ~~~0x000E0000#32 = wordOf 0xFF#8 0xF1#8 0xFFFF#16 := by decide
  have hop' : op &&& 0xFF#8 = op := BitVec.and_allOnes
  have himm' : imm &&& 0xFFFF#16 = imm := BitVec.and_allOnes
  conv_rhs => rw [← wordOf_eta w, hop, ← himm, hmask, wordOf_and, hop', himm']
  rw [midDaiko_rdOf_chOf]

/-- A word of a Daiko command without an immediate operand. -/
theorem wordOf_midDaiko_zero_eq {w : Word} {op : BitVec 8} (hop : opcodeOf w = op) (h : w &&& 0x0000FFFF#32 = 0#32) :
    wordOf op (midDaiko (rdOf w) (chOf w)) 0#16 = w &&& ~~~0x000E0000#32 := by
  obtain ⟨-, himm⟩ := zero_parts (m := 0x00#8) (v := 0xFFFF#16) _ h (by decide)
  exact wordOf_midDaiko_eq hop (immOf_eq_zero himm)

/-- The command read from a word encodes to that word, but for the ignored bits. -/
theorem encode_withOperands {i : Instr} {w : Word} (hop : opcodeOf w = opcodeOf (encode i)) (hz : w &&& zeroBits i = 0#32) :
    encode (withOperands i w) = w &&& ~~~ignoredBits i := by
  cases i with
  | bclr | tpack | daikin | mitsu => exact wordOf_midRegs_rdOf_eq (hop.trans (opcodeOf_wordOf ..)) hz
  | appb =>
    obtain ⟨hmid, himm⟩ := zero_parts (m := 0x0F#8) (v := 0xFF00#16) 0x000FFF00#32 hz (by decide)
    have hhigh : w.extractLsb' 8 8 = 0#8 := extract_eq_zero_of_immOf_and 8 8 himm (by decide) (by decide)
    exact wordOf_eq_of_parts (hop.trans (opcodeOf_wordOf ..)) (midRegs_rdOf_zero hmid) (zero_append_extract hhigh)
  | appw | delay =>
    obtain ⟨hmid, -⟩ := zero_parts (m := 0x0F#8) (v := 0#16) 0x000F0000#32 hz (by decide)
    exact wordOf_eq_of_parts (hop.trans (opcodeOf_wordOf ..)) (midRegs_rdOf_zero hmid) rfl
  | optclr =>
    obtain ⟨hmid, himm⟩ := zero_parts (m := 0xFF#8) (v := 0xFFFF#16) 0x00FFFFFF#32 hz (by decide)
    exact wordOf_eq_of_parts (hop.trans (opcodeOf_wordOf ..)) (hmid.symm.trans BitVec.and_allOnes) (immOf_eq_zero himm)
  | optset => exact wordOf_eq_of_parts (hop.trans (opcodeOf_wordOf ..)) rfl rfl
  | optnul =>
    obtain ⟨-, himm⟩ := zero_parts (m := 0x00#8) (v := 0xFFFF#16) 0x0000FFFF#32 hz (by decide)
    exact wordOf_eq_of_parts (hop.trans (opcodeOf_wordOf ..)) rfl (immOf_eq_zero himm)
  | cksum =>
    refine wordOf_eq_of_parts (hop.trans (opcodeOf_wordOf ..)) (midRegs_rdOf_rsOf w) ?_
    rw [BitVec.ofNat_toNat, BitVec.ofNat_toNat, BitVec.setWidth_eq, BitVec.setWidth_eq]
    exact append_extract_halves w
  | dkoff | dktog | dkwht | dkful | dkwrm => exact wordOf_midDaiko_zero_eq (hop.trans (opcodeOf_wordOf ..)) hz
  | dkngt =>
    obtain ⟨-, himm⟩ := zero_parts (m := 0x00#8) (v := 0xFFF0#16) 0x0000FFF0#32 hz (by decide)
    have hhigh : w.extractLsb' 4 12 = 0#12 := extract_eq_zero_of_immOf_and 4 12 himm (by decide) (by decide)
    refine wordOf_midDaiko_eq (hop.trans (opcodeOf_wordOf ..)) ?_
    rw [BitVec.ofNat_toNat, BitVec.setWidth_eq]
    exact zero_append_extract hhigh
  | dkon =>
    obtain ⟨-, himm⟩ := zero_parts (m := 0x00#8) (v := 0x8080#16) 0x00008080#32 hz (by decide)
    refine wordOf_midDaiko_eq (hop.trans (opcodeOf_wordOf ..)) ?_
    rw [BitVec.ofNat_toNat, BitVec.ofNat_toNat, BitVec.setWidth_eq, BitVec.setWidth_eq]
    exact append_extract_dkon himm
  | wenc1 | wenc4 => exact wordOf_eq_of_parts (hop.trans (opcodeOf_wordOf ..)) (midRegs_rdOf_rsOf w) BitVec.ofInt_toInt
  | bundle =>
    obtain ⟨-, himm⟩ := zero_parts (m := 0x00#8) (v := 0xFFE0#16) 0x0000FFE0#32 hz (by decide)
    have hhigh : w.extractLsb' 5 11 = 0#11 := extract_eq_zero_of_immOf_and 5 11 himm (by decide) (by decide)
    refine wordOf_eq_of_parts (hop.trans (opcodeOf_wordOf ..)) (midRegs_rdOf_rsOf w) ?_
    rw [BitVec.ofNat_toNat, BitVec.setWidth_eq]
    exact zero_append_extract hhigh
  | panint =>
    obtain ⟨-, himm⟩ := zero_parts (m := 0x00#8) (v := 0xFFFF#16) 0x0000FFFF#32 hz (by decide)
    exact wordOf_eq_of_parts (hop.trans (opcodeOf_wordOf ..)) (midRegs_rdOf_rsOf w) (immOf_eq_zero himm)
  | emit =>
    obtain ⟨hmid, -⟩ := zero_parts (m := 0xF0#8) (v := 0#16) 0x00F00000#32 hz (by decide)
    exact wordOf_eq_of_parts (hop.trans (opcodeOf_wordOf ..)) (midRegs_zero_rsOf hmid) rfl

/-! ### The ignored bits -/

theorem requireZero_congr {v w z : Word} (h : v &&& z = w &&& z) (i : Instr) : requireZero v z i = requireZero w z i := by
  rw [requireZero, requireZero, h]

/-- A change of a word that a mask leaves 0 in a slice does not show in that slice. -/
theorem extract_xor_and {w x m : Word} {b n : Nat} (h : m.extractLsb' b n = 0#n) :
    (w ^^^ (x &&& m)).extractLsb' b n = w.extractLsb' b n := by
  rw [BitVec.extractLsb'_xor, BitVec.extractLsb'_and, h, BitVec.and_zero, BitVec.xor_zero]

theorem opcodeOf_xor_selector (w x : Word) : opcodeOf (w ^^^ (x &&& 0x000E0000#32)) = opcodeOf w :=
  extract_xor_and (by decide)

theorem rdOf_xor_selector (w x : Word) : rdOf (w ^^^ (x &&& 0x000E0000#32)) = rdOf w :=
  congrArg BitVec.toFin (extract_xor_and (by decide))

theorem chOf_xor_selector (w x : Word) : chOf (w ^^^ (x &&& 0x000E0000#32)) = chOf w :=
  extract_xor_and (by decide)

theorem withOperands_xor_selector {i : Instr} (hi : ignoredBits i = 0x000E0000#32) (w x : Word) :
    withOperands i (w ^^^ (x &&& 0x000E0000#32)) = withOperands i w := by
  cases i with
  | dkoff | dktog | dkwht | dkful | dkwrm => rw [withOperands, rdOf_xor_selector, chOf_xor_selector, withOperands]
  | dkngt =>
    rw [withOperands, rdOf_xor_selector, chOf_xor_selector, extract_xor_and (by decide), withOperands]
  | dkon =>
    rw [withOperands, rdOf_xor_selector, chOf_xor_selector, extract_xor_and (by decide), extract_xor_and (by decide), withOperands]
  | _ => simp [ignoredBits] at hi

/-- A change of a word in bits outside a mask does not show under that mask. -/
theorem xor_and_and {w x m z : Word} (h : m &&& z = 0#32) : (w ^^^ (x &&& m)) &&& z = w &&& z := by
  apply BitVec.eq_of_getLsbD_eq
  intro k _
  have hk : (m.getLsbD k && z.getLsbD k) = false := by simpa using congrArg (BitVec.getLsbD · k) h
  simp only [BitVec.getLsbD_and, BitVec.getLsbD_xor]
  cases hz : z.getLsbD k <;> simp_all

theorem selector_and_zeroBits {i : Instr} (hi : ignoredBits i = 0x000E0000#32) : 0x000E0000#32 &&& zeroBits i = 0#32 := by
  cases i with
  | dkoff | dktog | dkwht | dkful | dkwrm | dkngt | dkon => simp only [zeroBits]; decide
  | _ => simp [ignoredBits] at hi

/-- The opcodes 0x40 to 0x46 are those of the commands with ignored bits (R75). -/
theorem exists_daiko_of_opcode : ∀ op : BitVec 8, 0x40 ≤ op.toNat → op.toNat ≤ 0x46 →
    ∃ i ∈ plainCommands, op = opcodeOf (encode i) ∧ ignoredBits i = 0x000E0000#32 := by
  decide

end Sys2Proof
end

section
/-! PROOFS. The statements about the command word (30_encoding): the decoder and the encoder, a step that runs the decoded command,
and the pseudo-instructions LIT and WORDS as runs. -/

namespace Sys2Proof.Machine

/-! ### Decoder and encoder -/

theorem step_command {s : State} {w : Word} {rest : List HostEvent} (h : s.host = .command w :: rest) :
    step s = execWord w { s with host := rest } := by
  rw [step, nextEvent_cons h]

/-- Settles O12: the word matches its row, and the operands lie where the decoder reads them. -/
theorem decodeOfEncodeIsTheCommand : Obligations.DecodeOfEncodeIsTheCommand := fun _ => decode_encode

/-- Settles O13: a decoded command is what its word holds, so the word's parts put together again. -/
theorem encodeOfDecodeIsTheWord : Obligations.EncodeOfDecodeIsTheWord := by
  intro w i h
  obtain ⟨-, hmatch, hi⟩ := of_decode_ok h
  obtain ⟨hop, hzero⟩ := matches_tableRow_iff.1 hmatch
  have hword := encode_withOperands hop hzero
  have hfits := wellFormed_withOperands i w
  rw [hi] at hword hfits
  exact ⟨hfits, hword⟩

/-- Settles O14: at a Daiko opcode neither the zero bits nor the operands take in w[19:17]. -/
theorem daikoSelectorBitsAreIgnored : Obligations.DaikoSelectorBitsAreIgnored := by
  intro w x hlow hhigh
  obtain ⟨i, -, hop, hi⟩ := exists_daiko_of_opcode (opcodeOf w) hlow hhigh
  rw [decode_of_opcode hop, decode_of_opcode ((opcodeOf_xor_selector w x).trans hop), withOperands_xor_selector hi,
    requireZero_congr (xor_and_and (selector_and_zeroBits hi))]

/-- Settles O11: the decoder's commands are the rows of the table, told apart by their opcodes. -/
theorem decoderAcceptsExactlyTheTable : Obligations.DecoderAcceptsExactlyTheTable := by
  refine ⟨fun s w rest hs hnone => ?_, fun w => ⟨fun ⟨i, hi⟩ => ?_, fun ⟨row, hrow, hmatch⟩ => ?_⟩,
    fun w i hi row hrow hmatch => ?_, fun w a ha b hb => ?_⟩
  · obtain ⟨e, he⟩ := not_decode_ok hnone
    exact (step_command hs).trans (execWord_refused he _)
  · obtain ⟨hrow, hmatch, -⟩ := of_decode_ok hi
    exact ⟨_, hrow, hmatch⟩
  · exact decode_ok_of_row hrow hmatch
  · obtain ⟨hrow', hmatch', -⟩ := of_decode_ok hi
    rw [opcodeRow_unique hrow hrow' hmatch hmatch']
    rfl
  · exact opcodeRow_unique ha hb

/-- Settles O9: the host's list loses the word, and a word that decodes is executed as its command. -/
theorem stepRunsTheDecodedCommand : Obligations.StepRunsTheDecodedCommand :=
  fun _ _ _ _ hs hw => (step_command hs).trans (execWord_command hw _)

/-- Settles O15, by evaluating the decoder on the fourteen words. -/
theorem writtenWordsDecode : Obligations.WrittenWordsDecode := by
  unfold Obligations.WrittenWordsDecode
  decide

/-! ### Literal loads (R78, R100 to R103) -/

/-- An encoded command on the port is the command the step runs. -/
theorem step_encode {s : State} {i : Instr} {rest : List HostEvent} (hi : i.wellFormed = true)
    (h : s.host = .command (encode i) :: rest) : step s = exec i { s with host := rest } :=
  (step_command h).trans (execWord_command (decode_encode hi) _)

/-- The state with a host that will present the words of some commands and then do `rest`. -/
def State.presenting (s : State) (is : List Instr) (rest : List HostEvent) : State :=
  { s with host := is.map (fun i => HostEvent.command (encode i)) ++ rest }

/-- `f` makes commands that append to B[rd], each of them the bytes `g` (R101, R102). -/
def Appends {α : Type} (rd : Reg) (f : α → Instr) (g : α → Buffer) : Prop :=
  ∀ a, (f a).wellFormed = true ∧ ∀ s, exec (f a) s = respond s (appendTo rd (g a) s)

theorem appb_appends (rd : Reg) : Appends rd (.appb rd) fun b => [b] := fun _ => ⟨rfl, fun _ => rfl⟩

theorem appw_appends (rd : Reg) : Appends rd (.appw rd) fun v => le32 (v.signExtend 32) :=
  fun _ => ⟨rfl, fun _ => congrArg (fun more => respond _ (appendTo rd more _)) (List.append_nil _)⟩

theorem respond_appendTo_of_fits {s : State} {rd : Reg} {b more : Buffer} (hb : s.buf[rd] = some b)
    (hfits : (b ++ more).length ≤ 65535) : respond s (appendTo rd more s) = .next (s.withResult rd (b ++ more)) := by
  rw [appendTo, readBuf_of_some hb, ok_bind, writeBuf_of_fits hfits, respond_ok, takeOk_setBuf]

theorem exec_bclr (s : State) (rd : Reg) : exec (.bclr rd) s = .next (s.withResult rd []) := by
  show respond s (writeBuf s rd []) = _
  rw [writeBuf_of_fits (Nat.zero_le _), respond_ok, takeOk_setBuf]

/-- One appending command presented by the host. -/
theorem Appends.step_presenting {α : Type} {rd : Reg} {f : α → Instr} {g : α → Buffer} (hfg : Appends rd f g) {a : α}
    {is : List Instr} {s : State} {b : Buffer} {rest : List HostEvent} (hfits : (b ++ g a).length ≤ 65535) :
    step ((s.presenting (f a :: is) rest).withResult rd b) = .next ((s.presenting is rest).withResult rd (b ++ g a)) := by
  obtain ⟨hwf, hexec⟩ := hfg a
  have hstep : step ((s.presenting (f a :: is) rest).withResult rd b) = exec (f a) ((s.presenting is rest).withResult rd b) :=
    step_encode hwf rfl
  rw [hstep, hexec, respond_appendTo_of_fits (withResult_buf_same _ rd b) hfits, withResult_withResult]

/-- A run of appending commands, from a register that holds `b`: what they append stands behind `b`, in order. -/
theorem Appends.run_presenting {α : Type} {rd : Reg} {f : α → Instr} {g : α → Buffer} (hfg : Appends rd f g) (as : List α)
    (s : State) (b : Buffer) (rest : List HostEvent) (hfits : (b ++ as.flatMap g).length ≤ 65535) :
    Host.Core.run Sys2Proof.core as.length ((s.presenting (as.map f) rest).withResult rd b) =
      .next (State.withResult { s with host := rest } rd (b ++ as.flatMap g)) := by
  induction as generalizing b with
  | nil =>
    rw [List.flatMap_nil, List.append_nil]
    exact run_zero _
  | cons a as ih =>
    rw [List.flatMap_cons, ← List.append_assoc] at hfits ⊢
    have hfirst : (b ++ g a).length ≤ 65535 := by
      rw [List.length_append] at hfits
      omega
    exact (run_succ (hfg.step_presenting hfirst)).trans (ih (b ++ g a) hfits)

/-- BCLR and then appending commands leave what those append. -/
theorem Appends.run_from_bclr {α : Type} {rd : Reg} {f : α → Instr} {g : α → Buffer} (hfg : Appends rd f g) {as : List α}
    {s : State} {rest : List HostEvent} (hfits : (as.flatMap g).length ≤ 65535)
    (hs : s.host = (Instr.bclr rd :: as.map f).map (fun i => HostEvent.command (encode i)) ++ rest) :
    Host.Core.run Sys2Proof.core (as.length + 1) s = .next (State.withResult { s with host := rest } rd (as.flatMap g)) := by
  have hfirst : step s = .next ((s.presenting (as.map f) rest).withResult rd []) :=
    (step_encode (i := .bclr rd) rfl hs).trans (exec_bclr _ rd)
  exact (run_succ hfirst).trans (hfg.run_presenting as s [] rest hfits)

/-- Settles O16: LIT is a run of APPB and WORDS a run of APPW, each after BCLR. -/
theorem literalLoadsLeaveTheirBytes : Obligations.LiteralLoadsLeaveTheirBytes := by
  constructor
  · intro s rd bytes rest hlen hs
    have hbytes : bytes.flatMap (fun b => [b]) = bytes := List.flatMap_singleton' bytes
    have hrun := (appb_appends rd).run_from_bclr (hbytes.symm ▸ hlen) hs
    rwa [hbytes] at hrun
  · intro s rd values rest hlen hs
    have hwords : values.flatMap (fun v => le32 (v.signExtend 32)) = toBuffer (values.map (BitVec.signExtend 32)) :=
      (List.flatMap_map ..).symm
    have hfits : (toBuffer (values.map (BitVec.signExtend 32))).length ≤ 65535 := by
      rwa [length_toBuffer, List.length_map]
    have hrun := (appw_appends rd).run_from_bclr (hwords.symm ▸ hfits) hs
    rwa [hwords] at hrun

end Sys2Proof.Machine
end

section
/-! PROOFS. The statements about the buffer and option commands (40_buffer): BCLR, APPB and APPW (R100 to R102), to_buffer (R103), and
what the commands do to OPT (R104 to R107, with the table of R108). -/

namespace Sys2Proof.Machine

/-- A command that raises a cause leaves the state with that cause's code. -/
theorem respond_error_withError (s : State) (c : Cause) : respond s (.error c) = .next (s.withError (causeCode c)) := by
  rw [respond_error, takeError_eq_withError]

/-! ### Clearing and appending (R100 to R102) -/

/-- Settles O17: the empty sequence fits every register. -/
theorem bclrMakesTheEmptyBuffer : Obligations.BclrMakesTheEmptyBuffer :=
  ⟨encodes_of_decode decode_bclr, exec_bclr⟩

theorem respond_appendTo_of_none {s : State} {rd : Reg} (hb : s.buf[rd] = none) (more : Buffer) :
    respond s (appendTo rd more s) = .next (s.withError 4#8) := by
  rw [appendTo, readBuf_of_none hb, error_bind]
  exact respond_error_withError s .unwritten

theorem respond_appendTo_of_long {s : State} {rd : Reg} {b more : Buffer} (hb : s.buf[rd] = some b)
    (hlong : 65535 < (b ++ more).length) : respond s (appendTo rd more s) = .next (s.withError 6#8) := by
  rw [appendTo, readBuf_of_some hb, ok_bind, writeBuf_of_long hlong]
  exact respond_error_withError s .capacity

/-- All that an appending command can answer: E_UNWRITTEN, E_CAPACITY, or its bytes behind those of the register. -/
theorem Appends.exec_spec {α : Type} {rd : Reg} {f : α → Instr} {g : α → Buffer} (hfg : Appends rd f g) (a : α) (s : State) :
    (∀ b, s.buf[rd] = some b → b.length + (g a).length ≤ 65535 → exec (f a) s = .next (s.withResult rd (b ++ g a))) ∧
    (s.buf[rd] = none → exec (f a) s = .next (s.withError 4#8)) ∧
    (∀ b, s.buf[rd] = some b → 65535 < b.length + (g a).length → exec (f a) s = .next (s.withError 6#8)) := by
  obtain ⟨-, hexec⟩ := hfg a
  rw [hexec s]
  refine ⟨fun b hb hfits => ?_, fun hb => respond_appendTo_of_none hb (g a), fun b hb hlong => ?_⟩
  · exact respond_appendTo_of_fits hb (List.length_append ▸ hfits)
  · exact respond_appendTo_of_long hb (List.length_append ▸ hlong)

/-- Settles O18: APPB is an appending command of one byte. -/
theorem appbAppendsOneByte : Obligations.AppbAppendsOneByte := by
  refine ⟨encodes_of_decode decode_appb, fun s rd imm8 => ?_⟩
  obtain ⟨hfits, hnone, hlong⟩ := (appb_appends rd).exec_spec imm8 s
  exact ⟨hfits, hnone, fun b hb hfull => hlong b hb (Nat.lt_succ_of_le hfull)⟩

/-- The one 32-bit word with the signed value of a 16-bit immediate is its sign extension (R10, R102). -/
theorem eq_signExtend_of_toInt_eq {v : Word} {imm16 : BitVec 16} (h : v.toInt = imm16.toInt) : v = imm16.signExtend 32 :=
  BitVec.eq_of_toInt_eq (h.trans (BitVec.toInt_signExtend_of_le (by decide)).symm)

/-- Settles O19: APPW is an appending command of the sign-extended immediate's four bytes. -/
theorem appwAppendsOneSignedWord : Obligations.AppwAppendsOneSignedWord := by
  refine ⟨encodes_of_decode decode_appw, fun s rd imm16 v hv => ?_⟩
  obtain rfl := eq_signExtend_of_toInt_eq hv
  exact (appw_appends rd).exec_spec imm16 s

/-! ### Words as bytes (R103) -/

/-- Leaving out the first `4 * k` bytes leaves out the first `k` words. -/
theorem drop_toBuffer (words : List Word) (k : Nat) : (toBuffer words).drop (4 * k) = toBuffer (words.drop k) := by
  induction words generalizing k with
  | nil => simp
  | cons w ws ih =>
    cases k with
    | zero => rfl
    | succ k =>
      rw [toBuffer_cons, Nat.mul_succ, Nat.add_comm, ← List.drop_drop, List.drop_left' (length_le32 w), ih, List.drop_succ_cons]

theorem take_drop_toBuffer {words : List Word} {k : Nat} {v : Word} (h : words[k]? = some v) :
    ((toBuffer words).drop (4 * k)).take 4 = le32 v := by
  obtain ⟨hk, rfl⟩ := List.getElem?_eq_some_iff.1 h
  rw [drop_toBuffer, List.drop_eq_getElem_cons hk, toBuffer_cons, List.take_left' (length_le32 _)]

/-- A word is the value its four bytes have, the least significant first (R10). -/
theorem toNat_eq_sum_bytes (v : Word) :
    v.toNat = (v.extractLsb' 0 8).toNat + 256 * (v.extractLsb' 8 8).toNat + 65536 * (v.extractLsb' 16 8).toNat +
      16777216 * (v.extractLsb' 24 8).toNat := by
  simp only [BitVec.extractLsb'_toNat, Nat.shiftRight_eq_div_pow]
  omega

/-- Settles O20: the bytes of the words before are left out, and the next four bytes are the next word's. -/
theorem toBufferHoldsEachWordLittleEndian : Obligations.ToBufferHoldsEachWordLittleEndian :=
  ⟨toBuffer_nil, fun words => ⟨length_toBuffer words, fun _ v hv => ⟨take_drop_toBuffer hv, toNat_eq_sum_bytes v⟩⟩⟩

/-! ### The option commands (R104 to R106, R108) -/

/-- Settles O21: OPTCLR leaves the empty option record. -/
theorem optclrEmptiesTheOptions : Obligations.OptclrEmptiesTheOptions :=
  ⟨encodes_of_decode decode_optclr, fun s => ⟨OptRec.empty, optGet_empty, congrArg _ (takeOk_eq (clearOpt s))⟩⟩

/-- The row of R108 that the model gives a field. -/
def rowOf (f : Field) : OptionRow := ⟨fieldId f, f, fieldMin f, fieldMax f, fieldNullable f⟩

theorem optionTable_eq_map_rowOf : optionTable = fields.map rowOf := by decide

theorem mem_optionTable_iff {row : OptionRow} : row ∈ optionTable ↔ ∃ f, rowOf f = row := by
  simp [optionTable_eq_map_rowOf, mem_fields]

/-- A successful command that writes one slot: that slot holds the value, and the others and the rest of the state are kept. -/
theorem respond_setOptSlot (s : State) (f : Field) (v : Slot) :
    ∃ o : OptRec, optGet o f = v ∧ (∀ g : Field, g ≠ f → optGet o g = optGet s.opt g) ∧
      respond s (.ok (setOptSlot s f v)) = .next { s with opt := o, err := 0#8 } :=
  ⟨optSet s.opt f v, optGet_optSet_same s.opt f v, fun _ hg => optGet_optSet_other s.opt hg v,
    congrArg _ (takeOk_eq (setOptSlot s f v))⟩

/-- OPTSET of a field and a value in its range (R105). -/
theorem exec_optset_of_field {f : Field} {v : BitVec 16} (hmin : fieldMin f ≤ v.toNat) (hmax : v.toNat ≤ fieldMax f) (s : State) :
    exec (.optset (fieldId f) v) s = respond s (.ok (setOptSlot s f (.num v.toNat))) := by
  have hrange : ¬ ((v.toNat < fieldMin f || fieldMax f < v.toNat) = true) := by simp [hmin, hmax]
  simp only [exec, execOptset, fieldOfId_fieldId, if_neg hrange]

/-- OPTSET of an id and a value that no field takes (R105). -/
theorem exec_optset_refused {fid : BitVec 8} {v : BitVec 16}
    (h : ∀ f, fieldId f = fid → ¬ (fieldMin f ≤ v.toNat ∧ v.toNat ≤ fieldMax f)) (s : State) :
    exec (.optset fid v) s = .next (s.withError 7#8) := by
  refine Eq.trans ?_ (respond_error_withError s .option)
  show execOptset fid v s = _
  unfold execOptset
  split
  · rfl
  · rename_i f hf
    have hrange : (v.toNat < fieldMin f || fieldMax f < v.toNat) = true := by
      have hout := h f (fieldOfId_eq_some_iff.1 hf)
      simp only [Bool.or_eq_true, decide_eq_true_eq]
      omega
    rw [if_pos hrange]

/-- Settles O22: the table of R108 is the model's fields, row by row. -/
theorem optsetAcceptsExactlyTheTable : Obligations.OptsetAcceptsExactlyTheTable := by
  refine ⟨encodes_of_decode decode_optset, fun row hrow v s hmin hmax => ?_, fun fid v s hnone => ?_⟩
  · obtain ⟨f, rfl⟩ := mem_optionTable_iff.1 hrow
    obtain ⟨o, hsame, hother, hnext⟩ := respond_setOptSlot s f (.num v.toNat)
    exact ⟨o, hsame, hother, (exec_optset_of_field hmin hmax s).trans hnext⟩
  · exact exec_optset_refused (fun f hf => hnone (rowOf f) (mem_optionTable_iff.2 ⟨f, rfl⟩) hf) s

/-- The nullable fields are the two timers (R108). -/
theorem fieldNullable_iff {f : Field} : fieldNullable f = true ↔ fieldId f = 0x0B#8 ∨ fieldId f = 0x0C#8 := by
  cases f <;> decide

/-- OPTNUL of a nullable field (R106). -/
theorem exec_optnul_of_nullable {f : Field} (hf : fieldNullable f = true) (s : State) :
    exec (.optnul (fieldId f)) s = respond s (.ok (setOptSlot s f .unset)) := by
  simp only [exec, execOptnul, fieldOfId_fieldId, if_pos hf]

/-- OPTNUL of an id that no nullable field has (R106). -/
theorem exec_optnul_refused {fid : BitVec 8} (h : ∀ f, fieldId f = fid → fieldNullable f ≠ true) (s : State) :
    exec (.optnul fid) s = .next (s.withError 7#8) := by
  refine Eq.trans ?_ (respond_error_withError s .option)
  show execOptnul fid s = _
  unfold execOptnul
  split
  · rfl
  · rename_i f hf
    rw [if_neg (h f (fieldOfId_eq_some_iff.1 hf))]

/-- Settles O23: the ids 0x0B and 0x0C are those of the nullable fields. -/
theorem optnulUnsetsTheTimersOnly : Obligations.OptnulUnsetsTheTimersOnly := by
  refine ⟨encodes_of_decode decode_optnul, fun row hrow hid s => ?_, fun fid s hon hoff => exec_optnul_refused ?_ s⟩
  · obtain ⟨f, rfl⟩ := mem_optionTable_iff.1 hrow
    obtain ⟨o, hsame, hother, hnext⟩ := respond_setOptSlot s f .unset
    exact ⟨o, hsame, hother, (exec_optnul_of_nullable (fieldNullable_iff.2 hid) s).trans hnext⟩
  · rintro f rfl hf
    exact (fieldNullable_iff.1 hf).elim hon hoff

/-! ### The commands that consume the options (R107) -/

/-- A rule whose last act is to clear OPT leaves it empty. -/
theorem clearLast_opt {x : Except Cause State} {u : State} (h : (x >>= fun t => .ok (clearOpt t)) = .ok u) :
    u.opt = OptRec.empty := by
  obtain ⟨t, -, ht⟩ := bind_ok_iff.1 h
  cases ht
  rfl

/-- The commands that read OPT end with a rule that leaves it empty. -/
theorem exec_eq_respond_clearing {i : Instr} (hi : readsOpt i = true) (s : State) :
    ∃ x : Except Cause State, exec i s = respond s x ∧ ∀ u, x = .ok u → u.opt = OptRec.empty := by
  cases i with
  | tpack rd =>
    refine ⟨_, rfl, fun u hu => ?_⟩
    obtain ⟨_, -, hu⟩ := bind_ok_iff.1 hu
    exact clearLast_opt hu
  | daikin rd =>
    refine ⟨_, rfl, fun u hu => ?_⟩
    obtain ⟨_, -, hu⟩ := bind_ok_iff.1 hu
    obtain ⟨_, -, hu⟩ := bind_ok_iff.1 hu
    obtain ⟨_, -, hu⟩ := bind_ok_iff.1 hu
    exact clearLast_opt hu
  | mitsu rd =>
    refine ⟨_, rfl, fun u hu => ?_⟩
    obtain ⟨_, -, hu⟩ := bind_ok_iff.1 hu
    exact clearLast_opt hu
  | _ => cases hi

/-- Settles O24: such a command ends with status OK and OPT empty, or with the error entry, which keeps OPT. -/
theorem encodersConsumeTheOptions : Obligations.EncodersConsumeTheOptions := by
  intro i s t hi h
  obtain ⟨x, hx, hempty⟩ := exec_eq_respond_clearing hi s
  obtain ⟨u, hu, rfl⟩ | ⟨c, -, rfl⟩ := respond_next_iff.1 (hx ▸ h)
  · have hopt : (takeOk u).opt = OptRec.empty := hempty u hu
    exact ⟨fun _ f => hopt ▸ optGet_empty f, fun herr => absurd rfl herr⟩
  · exact ⟨fun herr => absurd herr (causeCode_ne_zero c), fun _ => rfl⟩

end Sys2Proof.Machine
end

section
/-! PROOFS. The statements about the checksum generator and the timer bit-packer (41_checksum_timer): the checksum and where a packet
holds it (R120, R121), CKSUM (R122), the three timer bytes and their sentinel (R124 to R129), and TPACK (R130). -/

namespace Sys2Proof.Machine

/-! ### The checksum (R120, R121) -/

/-- Summing the numbers and then keeping eight bits is summing the bytes. -/
theorem ofNat_sum_map_toNat (b : Buffer) : BitVec.ofNat 8 (b.map BitVec.toNat).sum = b.sum := by
  induction b with
  | nil => rfl
  | cons x b ih => rw [List.map_cons, List.sum_cons, List.sum_cons, BitVec.ofNat_add, ih, BitVec.ofNat_toNat, BitVec.setWidth_eq]

theorem checksum_whole (b : Buffer) : checksum b 0 b.length = b.sum := by
  rw [checksum, List.drop_zero, List.take_length, ofNat_sum_map_toNat]

/-- A byte range inside a buffer, byte by byte. -/
theorem take_drop_eq_map_range {b : Buffer} {start n : Nat} (h : start + n ≤ b.length) :
    (b.drop start).take n = (List.range n).map fun k => b[start + k]?.getD 0#8 := by
  refine List.ext_getElem (by simp; omega) fun k hk _ => ?_
  have hin : start + k < b.length := by
    rw [List.length_take, List.length_drop] at hk
    omega
  simp [List.getElem?_eq_getElem hin]

/-- Settles O25: the checksum is the sum of the bytes as bytes, which neither the way of adding nor the order changes. -/
theorem checksumIsTheSumModulo256 : Obligations.ChecksumIsTheSumModulo256 := by
  refine ⟨fun b start n h => ?_, fun b start => rfl, fun b => ?_, fun a b hperm => ?_⟩
  · rw [checksum, take_drop_eq_map_range h, List.map_map]
    exact BitVec.toNat_ofNat _ 8
  · rw [checksum_whole]
    exact List.sum_eq_foldl
  · rw [checksum_whole, checksum_whole, hperm.sum_eq]

/-- A sealed packet ends with the checksum of the bytes before its last. -/
theorem getElem?_last_sealPacket (body : Buffer) :
    (sealPacket body)[(sealPacket body).length - 1]? =
      some (checksum (sealPacket body) 0 ((sealPacket body).length - 1)) := by
  rw [length_sealPacket, Nat.add_sub_cancel]
  simp [sealPacket, checksum]

/-- Settles O30: each of the three packets is a sealed one. -/
theorem checksumClosesEveryPacket : Obligations.ChecksumClosesEveryPacket := by
  intro cfg d m p hp
  have hsealed : ∃ body, p = sealPacket body := by
    simp only [List.mem_cons, List.not_mem_nil, or_false] at hp
    obtain rfl | rfl | rfl := hp <;> exact ⟨_, rfl⟩
  obtain ⟨body, rfl⟩ := hsealed
  exact getElem?_last_sealPacket body

/-! ### CKSUM (R122) -/

theorem exec_cksum_of_some {s : State} {rs : Reg} {b : Buffer} (hb : s.buf[rs] = some b) (rd : Reg) (start len : Nat) :
    exec (.cksum rd rs start len) s =
      respond s (raiseIf (b.length < start + len) .range >>= fun _ => writeBuf s rd [checksum b start len]) := by
  show execCksum rd rs start len s = _
  rw [execCksum, readBuf_of_some hb, ok_bind]

/-- Settles O26: a valid source leaves the range check, and one byte fits every register. -/
theorem cksumLeavesTheChecksum : Obligations.CksumLeavesTheChecksum := by
  refine ⟨encodes_of_decode decode_cksum, fun s rd rs start len => ⟨fun b hb hin => ?_, fun hb => ?_, fun b hb hout => ?_⟩⟩
  · have hfits : [checksum b start len].length ≤ 65535 := by simp
    rw [exec_cksum_of_some hb, decide_eq_false (Nat.not_lt.2 hin), raiseIf_false, ok_bind, writeBuf_of_fits hfits, respond_ok,
      takeOk_setBuf]
  · show execCksum rd rs start len s = _
    rw [execCksum, readBuf_of_none hb, error_bind]
    exact respond_error_withError s .unwritten
  · rw [exec_cksum_of_some hb, decide_eq_true hout, raiseIf_true, error_bind]
    exact respond_error_withError s .range

/-! ### The timer bytes (R124 to R129) -/

theorem toNat_onLow_some (v : BitVec 11) : (onLow (some v)).toNat = v.toNat % 256 := by
  simp [onLow]

theorem toNat_onHigh_some (v : BitVec 11) : (onHigh (some v)).toNat = v.toNat / 256 := by
  simp only [onHigh, BitVec.extractLsb'_toNat, Nat.shiftRight_eq_div_pow]
  omega

theorem getLsbD_offLow_some (v : BitVec 8) : (offLow (some v)).getLsbD 0 = v.getLsbD 0 := by
  simp [offLow]

theorem toNat_offHigh_some (v : BitVec 8) : (offHigh (some v)).toNat = v.toNat / 2 := by
  simp only [offHigh, BitVec.extractLsb'_toNat, Nat.shiftRight_eq_div_pow]
  omega

/-- The bit of off_low lies in the byte and outside bits 6:4 (R127). -/
theorem offLowBit_cases (pos : OffLowPos) : offLowBit pos < 4 ∨ offLowBit pos = 7 := by
  cases pos <;> decide

/-- Timer byte 1 (R127). -/
def timerByte1 (pos : OffLowPos) (on : Option (BitVec 11)) (off : Option (BitVec 8)) : Byte :=
  ((onHigh on).setWidth 8 <<< 4) ||| ((offLow off).setWidth 8 <<< offLowBit pos)

theorem timerPack_eq (pos : OffLowPos) (on : Option (BitVec 11)) (off : Option (BitVec 8)) :
    timerPack pos on off = [onLow on, timerByte1 pos on off, (offHigh off).setWidth 8] := rfl

/-- A bit of timer byte 1: on_high from bit 4 up, off_low at its own bit. -/
theorem getLsbD_timerByte1 (pos : OffLowPos) (on : Option (BitVec 11)) (off : Option (BitVec 8)) {k : Nat} (hk : k < 8) :
    (timerByte1 pos on off).getLsbD k =
      ((!decide (k < 4) && (onHigh on).getLsbD (k - 4)) || (decide (k = offLowBit pos) && (offLow off).getLsbD 0)) := by
  have hlow : (!decide (k < offLowBit pos) && (offLow off).getLsbD (k - offLowBit pos)) =
      (decide (k = offLowBit pos) && (offLow off).getLsbD 0) := by
    obtain h | rfl | h := Nat.lt_trichotomy k (offLowBit pos)
    · simp [h, Nat.ne_of_lt h]
    · simp
    · simp [BitVec.getLsbD_of_ge (offLow off) (k - offLowBit pos) (by omega), Nat.ne_of_gt h]
  rw [← hlow]
  simp [timerByte1, hk]

/-- Bits 6:4 are on_high. -/
theorem extract_timerByte1 (pos : OffLowPos) (on : Option (BitVec 11)) (off : Option (BitVec 8)) :
    (timerByte1 pos on off).extractLsb' 4 3 = onHigh on := by
  refine BitVec.eq_of_getLsbD_eq fun i hi => ?_
  have hpos := offLowBit_cases pos
  rw [BitVec.getLsbD_extractLsb', getLsbD_timerByte1 pos on off (by omega)]
  simp [hi, show 4 + i ≠ offLowBit pos by omega]

/-- Outside bits 6:4 only off_low can be set. -/
theorem getLsbD_timerByte1_outside (pos : OffLowPos) (on : Option (BitVec 11)) (off : Option (BitVec 8)) {k : Nat}
    (hk : k < 4 ∨ k = 7) : (timerByte1 pos on off).getLsbD k = (decide (k = offLowBit pos) && (offLow off).getLsbD 0) := by
  have hhigh : (!decide (k < 4) && (onHigh on).getLsbD (k - 4)) = false := by
    obtain h | rfl := hk
    · simp [h]
    · exact BitVec.getLsbD_of_ge (onHigh on) 3 (Nat.le_refl 3)
  rw [getLsbD_timerByte1 pos on off (by omega), hhigh, Bool.false_or]

/-- Settles O27: byte 1 holds on_high and off_low apart from each other, and the parts are those of their timers. -/
theorem timerBytesHoldTheirParts : Obligations.TimerBytesHoldTheirParts := by
  intro pos on off
  refine ⟨_, _, _, timerPack_eq pos on off, ?_, ?_, ?_, fun k hk h4 h5 h6 hlow => ?_, ?_⟩
  · cases on with
    | none => rfl
    | some v => exact toNat_onLow_some v
  · rw [extract_timerByte1]
    cases on with
    | none => rfl
    | some v => exact toNat_onHigh_some v
  · rw [getLsbD_timerByte1_outside pos on off (offLowBit_cases pos), decide_eq_true rfl, Bool.true_and]
    cases off with
    | none => rfl
    | some v => exact getLsbD_offLow_some v
  · rw [getLsbD_timerByte1_outside pos on off (by omega), decide_eq_false hlow, Bool.false_and]
  · rw [BitVec.toNat_setWidth_of_le (by decide)]
    cases off with
    | none => rfl
    | some v => exact toNat_offHigh_some v

theorem onHigh_some_eq_none_iff (v : BitVec 11) : onHigh (some v) = onHigh none ↔ 1536 ≤ v.toNat ∧ v.toNat ≤ 1791 := by
  rw [← BitVec.toNat_inj, toNat_onHigh_some]
  show v.toNat / 256 = 6 ↔ _
  omega

/-- Settles O28: the bytes printed are evaluated at each bit of off_low, and the range is where on_high is 6. -/
theorem timerSentinelAndItsCollisions : Obligations.TimerSentinelAndItsCollisions := by
  intro pos
  have hunset : timerPack pos none none = [0x00#8, 0x60#8, 0x60#8] := by cases pos <;> decide
  have hzero : timerPack pos (some 0) (some 0) = [0x00#8, 0x00#8, 0x00#8] := by cases pos <;> decide
  have hodd : timerPack pos none (some 193) ≠ timerPack pos none none := by cases pos <;> decide
  exact ⟨hunset, hzero, rfl, rfl, hodd, onHigh_some_eq_none_iff⟩

/-! ### TPACK (R130) -/

theorem BareTimer.slotTimer_eq {w : Nat} {slot : Slot} {x : Option (BitVec w)} (h : BareTimer slot x) :
    slotTimer none slot = x := by
  obtain ⟨rfl, rfl | rfl⟩ | ⟨v, rfl, rfl⟩ := h
  · rfl
  · rfl
  · simp [slotTimer]

theorem not_isTimerField_iff {f : Field} : (!isTimerField f) = true ↔ f ≠ .dkOnTimer ∧ f ≠ .dkOffTimer := by
  cases f <;> decide

theorem exec_tpack_of_foreign {s : State} {f : Field} (hon : f ≠ .dkOnTimer) (hoff : f ≠ .dkOffTimer)
    (hf : optGet s.opt f ≠ .absent) (rd : Reg) : exec (.tpack rd) s = .next (s.withError 7#8) := by
  have hany : anyPresent (fun f => !isTimerField f) s.opt = true :=
    anyPresent_eq_true_iff.2 ⟨f, not_isTimerField_iff.2 ⟨hon, hoff⟩, hf⟩
  show execTpack rd s = _
  rw [execTpack, hany, raiseIf_true, error_bind]
  exact respond_error_withError s .option

theorem takeOk_clearOpt_setBuf (s : State) (r : Reg) (v : Buffer) :
    takeOk (clearOpt (setBuf s r v)) = { s.withResult r v with opt := OptRec.empty } := by
  rw [takeOk_eq]
  rfl

/-- Settles O29: the guard is about the fields that are no timers, and three bytes fit every register. -/
theorem tpackPacksTheSuppliedTimers : Obligations.TpackPacksTheSuppliedTimers := by
  refine ⟨encodes_of_decode decode_tpack, fun s rd => ⟨fun on off hothers hon hoff => ?_, fun f hon hoff hf => ?_⟩⟩
  · have hnone : anyPresent (fun f => !isTimerField f) s.opt = false :=
      anyPresent_eq_false_iff.2 fun f hf => (not_isTimerField_iff.1 hf).elim (hothers f)
    have hfits : (timerPack Config.cfg.timerOffLowPos on off).length ≤ 65535 := by simp [length_timerPack]
    show execTpack rd s = _
    simp only [execTpack, hnone, raiseIf_false, ok_bind, hon.slotTimer_eq, hoff.slotTimer_eq, writeBuf_of_fits hfits, respond_ok,
      takeOk_clearOpt_setBuf]
  · exact exec_tpack_of_foreign hon hoff hf rd

end Sys2Proof.Machine
end

section
/-! PROOFS. The statements about the Daikin assembler (42_daikin): the merged record (R141), the bytes of packet 1 (R143) and of packet
2 (R144 to R154), and the command DAIKIN (R140). -/

namespace Sys2Proof.Machine

/-! ### The merged record (R141, R146) -/

theorem mergedBits_slotBits {w : Nat} (slot : Slot) (dflt : BitVec w) : MergedBits slot dflt (slotBits dflt slot) := by
  constructor
  · rintro rfl
    rfl
  · rintro v rfl
    simp [slotBits]

theorem mergedTimer_slotTimer {w : Nat} (slot : Slot) (dflt : Option (BitVec w)) : MergedTimer slot dflt (slotTimer dflt slot) := by
  refine ⟨?_, ?_, ?_⟩
  · rintro rfl
    rfl
  · rintro rfl
    rfl
  · rintro v rfl
    simp [slotTimer]

/-- Twice a temperature of at most 127 degrees fits the byte (R146). -/
theorem toNat_daikinTemperature_num (dflt : Byte) {t : Nat} (ht : t ≤ 127) : (daikinTemperature dflt (.num t)).toNat = 2 * t := by
  rw [daikinTemperature, BitVec.toNat_ofNat, Nat.mod_eq_of_lt (by omega)]

theorem daikinMerge_temperatureWire (d : DaikinRec) (o : OptRec) :
    (daikinMerge d o).temperatureWire = daikinTemperature d.temperatureWire (optGet o .dkTemperature) := rfl

theorem daikinMerge_temperatureWire_of_absent (d : DaikinRec) {o : OptRec} (h : optGet o .dkTemperature = .absent) :
    (daikinMerge d o).temperatureWire = d.temperatureWire := by
  rw [daikinMerge_temperatureWire, h, daikinTemperature]

theorem toNat_daikinMerge_temperatureWire (d : DaikinRec) {o : OptRec} {t : Nat} (ht : t ≤ 127)
    (h : optGet o .dkTemperature = .num t) : (daikinMerge d o).temperatureWire.toNat = 2 * t := by
  rw [daikinMerge_temperatureWire, h, toNat_daikinTemperature_num _ ht]

/-- Settles O35: each field of the merged record is its slot read over its default. -/
theorem daikinMergeOverlaysTheDefaults : Obligations.DaikinMergeOverlaysTheDefaults := by
  intro d o
  refine ⟨daikinMerge_temperatureWire_of_absent d, fun _ => toNat_daikinMerge_temperatureWire d, ?_⟩
  exact ⟨mergedBits_slotBits _ _, mergedBits_slotBits _ _, mergedBits_slotBits _ _, mergedBits_slotBits _ _, mergedBits_slotBits _ _,
    mergedBits_slotBits _ _, mergedBits_slotBits _ _, mergedBits_slotBits _ _, mergedBits_slotBits _ _, mergedBits_slotBits _ _,
    mergedTimer_slotTimer _ _, mergedTimer_slotTimer _ _, mergedBits_slotBits _ _, rfl, rfl, rfl, rfl, rfl, rfl, rfl, rfl, rfl⟩

/-! ### The pieces of a byte sequence -/

/-- The bytes of a piece, found behind those before it. -/
theorem take_drop_append {a b c : Buffer} {i n : Nat} (ha : a.length = i) (hb : b.length = n) :
    ((a ++ (b ++ c)).drop i).take n = b := by
  rw [List.drop_left' ha, List.take_left' hb]

/-- A byte before the checksum is a byte of the packet. -/
theorem getElem?_sealPacket_of_body {body : Buffer} {k : Nat} {b : Byte} (h : body[k]? = some b) :
    (sealPacket body)[k]? = some b := by
  obtain ⟨hk, -⟩ := List.getElem?_eq_some_iff.1 h
  rw [sealPacket, List.getElem?_append_left hk, h]

/-- The last byte of a packet of known length is its checksum (R121). -/
theorem getElem?_checksum_sealPacket {body : Buffer} {n : Nat} (h : (sealPacket body).length = n + 1) :
    (sealPacket body)[n]? = some (checksum (sealPacket body) 0 n) := by
  have hlast := getElem?_last_sealPacket body
  rwa [h, Nat.add_sub_cancel] at hlast

/-! ### Packet 1 (R143) -/

theorem length_daikinP1 (cfg : Cfg) (r : DaikinRec) : (daikinP1 cfg r).length = 20 := by
  simp [daikinP1, length_sealPacket]

/-- Packet 1 as its four pieces. -/
theorem daikinP1_eq (cfg : Cfg) (r : DaikinRec) :
    ∃ sum : Byte, daikinP1 cfg r = cfg.daikinP1Hdr.toList ++ ([r.fanYonder] ++ (cfg.daikinP1Rsv.toList ++ [sum])) := by
  simp [daikinP1, sealPacket]

/-- Settles O31: packet 1 is cut at the lengths of its pieces. -/
theorem daikinPacket1Layout : Obligations.DaikinPacket1Layout := by
  intro cfg r
  have hlen := length_daikinP1 cfg r
  have hsum : (daikinP1 cfg r)[19]? = some (checksum (daikinP1 cfg r) 0 19) := getElem?_checksum_sealPacket hlen
  obtain ⟨sum, heq⟩ := daikinP1_eq cfg r
  refine ⟨hlen, ?_, ?_, ?_, hsum⟩
  · rw [heq, List.take_left' (Vector.length_toList ..)]
  · rw [heq, List.getElem?_append_right (by simp)]
    simp
  · rw [heq, ← List.append_assoc]
    exact take_drop_append (by simp) (Vector.length_toList ..)

/-! ### Packet 2 (R144 to R154) -/

theorem length_daikinP2 (cfg : Cfg) (r : DaikinRec) : (daikinP2 cfg r).length = 19 := by
  simp [daikinP2, daikinBody, length_sealPacket, length_timerPack]

/-- Byte `k` of the body stands behind the five header bytes. -/
theorem getElem?_daikinP2_of_body {cfg : Cfg} {r : DaikinRec} {k : Nat} {b : Byte} (h : (daikinBody cfg r)[k]? = some b) :
    (daikinP2 cfg r)[k + 5]? = some b := by
  refine getElem?_sealPacket_of_body ?_
  rw [List.getElem?_append_right (by simp), length_bytesOf, Nat.add_sub_cancel, h]

/-- Packet 2 cut around the timer bytes. -/
theorem daikinP2_eq (cfg : Cfg) (r : DaikinRec) :
    ∃ before after : Buffer, before.length = 5 ∧
      daikinP2 cfg r = cfg.daikinP2Hdr.toList ++ (before ++ (timerPack cfg.timerOffLowPos r.onTimer r.offTimer ++ after)) := by
  refine ⟨[daikinByte5 r, r.temperatureWire, r.padding3, r.fanSpeed ++ r.vaneDirection, r.leftRight ++ r.padding4], ?_⟩
  simp [daikinP2, daikinBody, sealPacket]

theorem daikinByte5_eq (r : DaikinRec) :
    daikinByte5 r = (r.padding1.setWidth 8 <<< 7) ||| (r.mode.setWidth 8 <<< 4) ||| (r.padding2.setWidth 8 <<< 3) |||
      (r.offTimerSet.setWidth 8 <<< 2) ||| (r.onTimerSet.setWidth 8 <<< 1) ||| r.power.setWidth 8 := by
  rw [daikinByte5, append_eq_shift_or]
  simp only [BitVec.setWidth_append_eq_shiftLeft_setWidth_or, BitVec.shiftLeft_or_distrib, ← BitVec.shiftLeft_add]

theorem daikinByte13_eq (r : DaikinRec) :
    daikinByte13 r = (r.padding5.setWidth 8 <<< 5) ||| (r.silent.setWidth 8 <<< 4) ||| (r.padding6.setWidth 8 <<< 1) |||
      r.powerfulMode.setWidth 8 :=
  (BitVec.setWidth_eq _).symm.trans BitVec.setWidth_append_append_append_eq_shiftLeft_setWidth_or

/-- Settles O33: byte 5 is the first byte of the body. -/
theorem daikinPacket2FlagsByte : Obligations.DaikinPacket2FlagsByte :=
  fun _ r => getElem?_daikinP2_of_body (congrArg some (daikinByte5_eq r))

theorem getElem?_daikinP2_temperature (cfg : Cfg) (r : DaikinRec) : (daikinP2 cfg r)[6]? = some r.temperatureWire :=
  getElem?_daikinP2_of_body rfl

/-- Settles O34: byte 6 is the merged temperature. -/
theorem daikinTemperatureIsDoubled : Obligations.DaikinTemperatureIsDoubled := by
  intro cfg o
  refine ⟨fun t ht h => ?_, fun h => ?_⟩
  · exact ⟨_, getElem?_daikinP2_temperature cfg _, toNat_daikinMerge_temperatureWire _ ht h⟩
  · rw [getElem?_daikinP2_temperature, daikinMerge_temperatureWire_of_absent _ h]

/-- Settles O32: each byte is a byte of the body with its fields shifted to their places, and the three constant bytes are those of
the merged record, which are CFG's. -/
theorem daikinPacket2Layout : Obligations.DaikinPacket2Layout := by
  intro cfg r
  have hlen := length_daikinP2 cfg r
  have hsum : (daikinP2 cfg r)[18]? = some (checksum (daikinP2 cfg r) 0 18) := getElem?_checksum_sealPacket hlen
  have hpadding3 (r : DaikinRec) : (daikinP2 cfg r)[7]? = some r.padding3 := getElem?_daikinP2_of_body rfl
  have hb16 (r : DaikinRec) : (daikinP2 cfg r)[16]? = some r.b16 := getElem?_daikinP2_of_body rfl
  have hb17 (r : DaikinRec) : (daikinP2 cfg r)[17]? = some r.b17 := getElem?_daikinP2_of_body rfl
  obtain ⟨before, after, hbefore, heq⟩ := daikinP2_eq cfg r
  refine ⟨hlen, ?_, hpadding3 r, ?_, ?_, ?_, ?_, ?_, getElem?_daikinP2_of_body rfl, hb16 r, hb17 r, hsum, fun o => ?_⟩
  · rw [heq, List.take_left' (Vector.length_toList ..)]
  · exact getElem?_daikinP2_of_body (congrArg some (append_eq_shift_or r.fanSpeed r.vaneDirection))
  · exact getElem?_daikinP2_of_body (congrArg some (append_eq_shift_or r.leftRight r.padding4))
  · rw [heq, ← List.append_assoc]
    exact take_drop_append (by simp [hbefore]) rfl
  · exact getElem?_daikinP2_of_body (congrArg some (daikinByte13_eq r))
  · exact getElem?_daikinP2_of_body (congrArg some (append_eq_shift_or r.intelligentOn r.padding7))
  · exact ⟨hpadding3 _, hb16 _, hb17 _⟩

/-! ### DAIKIN (R140) -/

/-- The register after a register, where there is one. -/
theorem reg_add_one_eq {r r' : Reg} (h : r'.val = r.val + 1) : r + 1 = r' := by
  apply Fin.ext
  rw [Fin.val_add]
  show (r.val + 1) % 16 = r'.val
  omega

theorem exec_daikin_of_b15 {rd : Reg} (hrd : rd.val = 15) (s : State) : exec (.daikin rd) s = .next (s.withError 5#8) := by
  obtain rfl : rd = 15 := Fin.ext hrd
  show execDaikin 15 s = _
  rw [execDaikin, beq_self_eq_true, raiseIf_true, error_bind]
  exact respond_error_withError s .range

/-- What is left of DAIKIN when the register is not B15. -/
theorem exec_daikin_of_not_b15 {rd : Reg} (hrd : rd.val ≠ 15) (s : State) :
    exec (.daikin rd) s = respond s (raiseIf (anyPresent isMitsuField s.opt) .option >>= fun _ =>
      writeBuf s rd (daikinP1 Config.cfg (daikinMerge Config.cfg.daikinDef s.opt)) >>= fun t =>
      writeBuf t (rd + 1) (daikinP2 Config.cfg (daikinMerge Config.cfg.daikinDef s.opt)) >>= fun u => .ok (clearOpt u)) := by
  have hne : (rd == 15) = false := beq_false_of_ne fun h => hrd (congrArg Fin.val h)
  show execDaikin rd s = _
  rw [execDaikin, hne, raiseIf_false, ok_bind]
  rfl

/-- Settles O36: past the two guards, 20 and 19 bytes fit every register. -/
theorem daikinLeavesBothPackets : Obligations.DaikinLeavesBothPackets := by
  refine ⟨encodes_of_decode decode_daikin, fun s rd => ⟨fun rd' hrd' hmitsu => ?_, fun hrd => exec_daikin_of_b15 hrd s,
    fun f hrd hf hpresent => ?_⟩⟩
  · have hnone : anyPresent isMitsuField s.opt = false := anyPresent_eq_false_iff.2 hmitsu
    have hfits1 (r : DaikinRec) : (daikinP1 Config.cfg r).length ≤ 65535 := by rw [length_daikinP1]; decide
    have hfits2 (r : DaikinRec) : (daikinP2 Config.cfg r).length ≤ 65535 := by rw [length_daikinP2]; decide
    rw [exec_daikin_of_not_b15 (by omega), hnone, raiseIf_false, ok_bind, writeBuf_of_fits (hfits1 _), ok_bind,
      writeBuf_of_fits (hfits2 _), ok_bind, reg_add_one_eq hrd', respond_ok, takeOk_clearOpt_setBuf]
    rfl
  · have hany : anyPresent isMitsuField s.opt = true := anyPresent_eq_true_iff.2 ⟨f, hf, hpresent⟩
    rw [exec_daikin_of_not_b15 hrd, hany, raiseIf_true, error_bind]
    exact respond_error_withError s .option

end Sys2Proof.Machine
end

section
/-! PROOFS. The statements about the Mitsubishi assembler (43_mitsubishi): the bytes of the packet (R172 to R181), the merged record
(R171, R182), and the command MITSU (R170). -/

namespace Sys2Proof.Machine

/-! ### The packet (R172 to R181) -/

/-- Three fields of a byte, high to low, each shifted to its place. -/
theorem append_append_eq_shift_or {l m n : Nat} (a : BitVec l) (b : BitVec m) (c : BitVec n) :
    a ++ b ++ c = (a.setWidth (l + m + n) <<< (m + n)) ||| (b.setWidth (l + m + n) <<< n) ||| c.setWidth (l + m + n) :=
  (BitVec.setWidth_eq _).symm.trans BitVec.setWidth_append_append_eq_shiftLeft_setWidth_or

theorem mitsuByte5_eq (r : MitsuRec) :
    mitsuByte5 r = (r.padding1.setWidth 8 <<< 5) ||| (r.timerMode.setWidth 8 <<< 3) ||| (r.on.setWidth 8 <<< 2) |||
      r.padding2.setWidth 8 :=
  (BitVec.setWidth_eq _).symm.trans BitVec.setWidth_append_append_append_eq_shiftLeft_setWidth_or

/-- A packet begins with its header. -/
theorem take_sealPacket_header {n : Nat} (header : Vector Byte n) (body : Buffer) :
    (sealPacket (bytesOf header ++ body)).take n = header.toList := by
  rw [sealPacket, List.append_assoc, List.take_left' (length_bytesOf header), bytesOf_eq_toList]

/-- The bytes between the header and the checksum stand behind those of the header. -/
theorem getElem?_sealPacket_behind_header {n k : Nat} (header : Vector Byte n) {body : Buffer} {b : Byte}
    (h : body[k]? = some b) : (sealPacket (bytesOf header ++ body))[k + n]? = some b := by
  refine getElem?_sealPacket_of_body ?_
  rw [List.getElem?_append_right (by simp), length_bytesOf, Nat.add_sub_cancel, h]

theorem length_mitsuEncode (cfg : Cfg) (r : MitsuRec) : (mitsuEncode cfg r).length = 14 := by
  simp [mitsuEncode, length_sealPacket]

/-- Settles O37: the packet is the header, eight bytes with their fields shifted to their places, and the checksum. -/
theorem mitsubishiPacketLayout : Obligations.MitsubishiPacketLayout := by
  intro cfg r
  have hlen := length_mitsuEncode cfg r
  refine ⟨hlen, take_sealPacket_header cfg.mitsuHdr _, ?_, ?_, ?_, ?_, ?_, ?_, ?_, ?_, getElem?_checksum_sealPacket hlen⟩
  all_goals refine getElem?_sealPacket_behind_header cfg.mitsuHdr (congrArg some ?_)
  · exact mitsuByte5_eq r
  · exact append_append_eq_shift_or r.padding3 r.dryIntensity r.mode
  · exact append_eq_shift_or r.padding4 r.temperatureWire
  · exact append_append_eq_shift_or r.isTimerCommand r.windDirection r.windSpeed
  · rfl
  · rfl
  · exact append_append_eq_shift_or r.padding6 r.coolFeeling r.padding7
  · rfl

/-! ### MITSU (R170) -/

/-- Settles O39: past the guard, 14 bytes fit every register. -/
theorem mitsuLeavesThePacket : Obligations.MitsuLeavesThePacket := by
  refine ⟨encodes_of_decode decode_mitsu, fun s rd => ⟨fun hdaikin => ?_, fun f hf hpresent => ?_⟩⟩
  · have hnone : anyPresent isDaikinField s.opt = false := anyPresent_eq_false_iff.2 hdaikin
    have hfits (r : MitsuRec) : (mitsuEncode Config.cfg r).length ≤ 65535 := by rw [length_mitsuEncode]; decide
    show execMitsu rd s = _
    rw [execMitsu, hnone, raiseIf_false, ok_bind, writeBuf_of_fits (hfits _), ok_bind, respond_ok, takeOk_clearOpt_setBuf]
  · have hany : anyPresent isDaikinField s.opt = true := anyPresent_eq_true_iff.2 ⟨f, hf, hpresent⟩
    show execMitsu rd s = _
    rw [execMitsu, hany, raiseIf_true, error_bind]
    exact respond_error_withError s .option

/-! ### The merged record (R171, R182) -/

/-- From 16 degrees up, 31 minus the temperature fits the four bits (R182). -/
theorem toNat_mitsuTemperature_num (dflt : BitVec 4) {t : Nat} (hleast : 16 ≤ t) :
    (mitsuTemperature dflt (.num t)).toNat = 31 - t := by
  rw [mitsuTemperature, mitsuTempBase, BitVec.toNat_ofNat, Nat.mod_eq_of_lt (by omega)]

theorem mitsuMerge_temperatureWire (d : MitsuRec) (o : OptRec) :
    (mitsuMerge d o).temperatureWire = mitsuTemperature d.temperatureWire (optGet o .miTemperature) := rfl

theorem fieldId_injective : Function.Injective fieldId := fun f _ h =>
  Option.some.inj ((fieldOfId_fieldId f).symm.trans (fieldOfId_eq_some_iff.2 h.symm))

/-- OPTSET of a field and a value outside its range (R105). -/
theorem exec_optset_of_out_of_range {f : Field} {v : BitVec 16} (h : ¬ (fieldMin f ≤ v.toNat ∧ v.toNat ≤ fieldMax f)) (s : State) :
    exec (.optset (fieldId f) v) s = .next (s.withError 7#8) :=
  exec_optset_refused (fun _ hg => fieldId_injective hg ▸ h) s

/-- Settles O38: each field of the merged record is its slot read over its default, and 16 to 31 is the range of the temperature in the
table of R108. -/
theorem mitsubishiMergeOverlaysTheDefaults : Obligations.MitsubishiMergeOverlaysTheDefaults := by
  intro d o
  refine ⟨fun t hleast _ h => ?_, fun h => ?_, ?_⟩
  · rw [mitsuMerge_temperatureWire, h, toNat_mitsuTemperature_num _ hleast]
  · rw [mitsuMerge_temperatureWire, h, mitsuTemperature]
  · refine ⟨mergedBits_slotBits _ _, mergedBits_slotBits _ _, mergedBits_slotBits _ _, mergedBits_slotBits _ _,
      mergedBits_slotBits _ _, mergedBits_slotBits _ _, mergedBits_slotBits _ _, mergedBits_slotBits _ _, mergedBits_slotBits _ _,
      rfl, rfl, rfl, rfl, rfl, rfl, rfl, rfl, fun v s hv => ?_⟩
    exact exec_optset_of_out_of_range (f := .miTemperature)
      (fun ⟨hmin, hmax⟩ => hv.elim (Nat.not_lt.2 hmin) (Nat.not_lt.2 hmax)) s

end Sys2Proof.Machine
end

section
/-! PROOFS. The statements about the Daiko lights assembler (44_daiko_lights): the frame and its complemented pairs (R190, R192), the
channel (R191), the fixed commands (R196 to R200), and the codes of DKNGT (R194, R201) and DKON (R195, R202). -/

namespace Sys2Proof.Machine

/-! ### The frame (R190, R192) -/

/-- The bitwise complement of a byte and the byte have no bit in common and together all of them (R192). -/
theorem toNat_add_toNat_allOnes_sub {n : Nat} (b : BitVec n) : b.toNat + (BitVec.allOnes n - b).toNat = 2 ^ n - 1 := by
  rw [BitVec.allOnes_sub_eq_not, BitVec.toNat_not]
  have hb := b.isLt
  omega

/-- Settles O40: the frame unfolds to its bytes, and 255 is the byte of all ones. -/
theorem daikoFrameIsHeaderAndPairs : Obligations.DaikoFrameIsHeaderAndPairs :=
  ⟨fun _ _ _ => ⟨rfl, rfl⟩, fun b => ⟨BitVec.allOnes_sub_eq_not b, toNat_add_toNat_allOnes_sub b⟩, by decide⟩

/-! ### The channel (R191) -/

/-- Below 128 the top bit is free, so OR-ing the channel in adds it. -/
theorem toNat_withChannel_of_lt (ch : BitVec 1) {p : Byte} (hp : p.toNat < 128) :
    (withChannel ch p).toNat = 128 * ch.toNat + p.toNat := by
  have hch := ch.isLt
  have hfits : (ch.setWidth 8 <<< 7).toNat = ch.toNat <<< 7 := by
    rw [BitVec.toNat_shiftLeft, BitVec.toNat_setWidth_of_le (by decide), Nat.mod_eq_of_lt]
    rw [Nat.shiftLeft_eq]
    omega
  rw [withChannel, BitVec.toNat_or, hfits, ← Nat.shiftLeft_add_eq_or_of_lt hp, Nat.shiftLeft_eq, Nat.mul_comm]

theorem getLsbD_withChannel (ch : BitVec 1) (p : Byte) (k : Nat) :
    (withChannel ch p).getLsbD k = ((decide (k = 7) && ch.getLsbD 0) || p.getLsbD k) := by
  rw [withChannel, BitVec.getLsbD_or, BitVec.getLsbD_shiftLeft]
  obtain hk | rfl | hk := Nat.lt_trichotomy k 7
  · simp [hk, Nat.ne_of_lt hk]
  · simp
  · simp [show ¬ k < 8 by omega, Nat.ne_of_gt hk]

/-- From 128 on the top bit is set already. -/
theorem withChannel_of_ge (ch : BitVec 1) {p : Byte} (hp : 128 ≤ p.toNat) : withChannel ch p = p := by
  have htop : p.getLsbD 7 = true :=
    p.msb_eq_getLsbD_last.symm.trans (BitVec.msb_eq_true_iff_two_mul_ge.2 (by omega))
  refine BitVec.eq_of_getLsbD_eq fun k _ => ?_
  rw [getLsbD_withChannel]
  by_cases hk : k = 7
  · rw [hk, htop, Bool.or_true]
  · rw [decide_eq_false hk, Bool.false_and, Bool.false_or]

/-- Settles O41: the two ranges of the payload byte. -/
theorem daikoChannelIsTheTopBit : Obligations.DaikoChannelIsTheTopBit :=
  fun ch _ => ⟨toNat_withChannel_of_lt ch, withChannel_of_ge ch⟩

/-! ### The commands (R196 to R202) -/

/-- A command of the family succeeds: the frame of a short payload fits every register. -/
theorem respond_writeFrame {payload : Buffer} (hshort : payload.length ≤ 32766) (s : State) (rd : Reg) (ch : BitVec 1) :
    respond s (writeFrame rd ch payload s) = .next (s.withResult rd (daikoFrame ch payload)) := by
  have hfits : (daikoFrame ch payload).length ≤ 65535 := by
    rw [length_daikoFrame]
    omega
  rw [writeFrame, writeBuf_of_fits hfits, respond_ok, takeOk_setBuf]

theorem respond_writeFrame_code (s : State) (rd : Reg) (ch : BitVec 1) (code : Byte) :
    respond s (writeFrame rd ch [code] s) = .next (s.withResult rd (daikoFrame ch [code])) :=
  respond_writeFrame (by simp) s rd ch

/-- Settles O42: each of the five writes the frame of one byte. -/
theorem fixedDaikoCommandsLeaveTheirFrames : Obligations.FixedDaikoCommandsLeaveTheirFrames :=
  ⟨encodes_of_decode decode_dkoff, encodes_of_decode decode_dktog, encodes_of_decode decode_dkwht, encodes_of_decode decode_dkful,
    encodes_of_decode decode_dkwrm, fun s rd ch =>
      ⟨respond_writeFrame_code s rd ch _, respond_writeFrame_code s rd ch _, respond_writeFrame_code s rd ch _,
        respond_writeFrame_code s rd ch _, respond_writeFrame_code s rd ch _⟩⟩

/-- A number given as a byte's value is that byte. -/
theorem ofNat_eq_of_toNat_eq {n x : Nat} {b : BitVec n} (h : b.toNat = x) : BitVec.ofNat n x = b := by
  rw [← h, BitVec.ofNat_toNat, BitVec.setWidth_eq]

theorem nightCode_of_le {i : Nat} (h : i ≤ 7) : nightCode i = i + 5 := if_pos h

theorem nightCode_of_gt {i : Nat} (h : ¬ i ≤ 7) : nightCode i = i + 8 := if_neg h

/-- The night codes are up to 12 or from 16 on (R194). -/
theorem nightCode_range (i : Nat) : nightCode i ≤ 12 ∨ 16 ≤ nightCode i := by
  by_cases h : i ≤ 7
  · rw [nightCode_of_le h]
    omega
  · rw [nightCode_of_gt h]
    omega

/-- Settles O43: the code is the byte of the night code, whose two pieces leave out 13 to 15. -/
theorem dkngtLeavesTheNightCode : Obligations.DkngtLeavesTheNightCode := by
  refine ⟨encodes_of_decode decode_dkngt, fun s rd ch i code _ hcode => ?_, fun i => ?_⟩
  · have hbyte : BitVec.ofNat 8 (nightCode i) = code := ofNat_eq_of_toNat_eq hcode
    show execDkngt rd ch i s = _
    rw [execDkngt, hbyte, respond_writeFrame_code]
  · have hrange := nightCode_range i
    omega

/-- Settles O44: the payload is the two bytes of the sums. -/
theorem dkonLeavesWarmthAndBrightness : Obligations.DkonLeavesWarmthAndBrightness := by
  refine ⟨encodes_of_decode decode_dkon, fun s rd ch warmth brightness w b _ _ hw hb => ?_⟩
  have hwarmth : BitVec.ofNat 8 (warmth + onWarmthAdd) = w := ofNat_eq_of_toNat_eq hw
  have hbrightness : BitVec.ofNat 8 (brightness + onBrightAdd) = b := ofNat_eq_of_toNat_eq hb
  show execDkon rd ch warmth brightness s = _
  rw [execDkon, hwarmth, hbrightness, respond_writeFrame (by simp)]

end Sys2Proof.Machine
end

section
/-! PROOFS. The statements about framing, bundling and the hand-over to the sink (45_framing): the tag check (R212), WENC1 and WENC4
(R213, R214, R220, R221), the bundle layout and BUNDLE (R216, R217, R222, R225), DELAY (R219, R223), and EMIT (R224). -/

namespace Sys2Proof.Machine

/-- A rule that ends by writing bytes that fit leaves them. -/
theorem respond_writeBuf_of_fits {v : Buffer} (hfits : v.length ≤ 65535) (s : State) (rd : Reg) :
    respond s (writeBuf s rd v) = .next (s.withResult rd v) := by
  rw [writeBuf_of_fits hfits, respond_ok, takeOk_setBuf]

/-- A rule that first reads an invalid register ends with E_UNWRITTEN. -/
theorem respond_readBuf_of_none {s : State} {rs : Reg} (hb : s.buf[rs] = none) (f : Buffer → Except Cause State) :
    respond s (readBuf s rs >>= f) = .next (s.withError 4#8) := by
  rw [readBuf_of_none hb, error_bind]
  exact respond_error_withError s .unwritten

/-! ### The tag check (R212) -/

theorem isEncoding_iff_mem {tag : Int} : isEncoding tag = true ↔ tag ∈ encodings.map encodingValue := by
  simp only [isEncoding, List.any_eq_true, beq_iff_eq, List.mem_map]

/-- Settles O45: the numbers of the enumeration fill the four ranges. -/
theorem tagCheckIsMembership : Obligations.TagCheckIsMembership := by
  intro tag
  rw [isEncoding_iff_mem]
  simp only [encodings, encodingValue, List.map_cons, List.map_nil, List.mem_cons, List.not_mem_nil, or_false]
  omega

/-! ### WENC1 and WENC4 (R213, R214, R220, R221) -/

/-- What WENC1 and WENC4 compute, each with its own way to frame a payload (R220, R221). -/
def wrapRule (frame : Buffer → Buffer) (rd rs : Reg) (tag : Int) (s : State) : Except Cause State :=
  readBuf s rs >>= fun p => raiseIf (!isEncoding tag) .unknownEncoding >>= fun _ => writeBuf s rd (frame p)

theorem exec_wenc1 (rd rs : Reg) (tag : Int) (s : State) :
    exec (.wenc1 rd rs tag) s = respond s (wrapRule (withEncoding1 tag) rd rs tag s) := rfl

theorem exec_wenc4 (rd rs : Reg) (tag : Int) (s : State) :
    exec (.wenc4 rd rs tag) s = respond s (wrapRule (withEncoding4 tag) rd rs tag s) := rfl

/-- Past a valid source and an accepted tag, only the length is left to check. -/
theorem wrapRule_of_accepted {s : State} {rs : Reg} {p : Buffer} {tag : Int} (hp : s.buf[rs] = some p)
    (htag : isEncoding tag = true) (frame : Buffer → Buffer) (rd : Reg) :
    wrapRule frame rd rs tag s = writeBuf s rd (frame p) := by
  rw [wrapRule, readBuf_of_some hp, ok_bind, htag, Bool.not_true, raiseIf_false, ok_bind]

/-- All that a wrapping command can answer, its frame being `n` bytes longer than the payload: the frame, E_UNWRITTEN,
E_UNKNOWN_ENCODING or E_CAPACITY. -/
theorem respond_wrapRule {frame : Buffer → Buffer} {n : Nat} (hlen : ∀ p, (frame p).length = p.length + n) (s : State)
    (rd rs : Reg) (tag : Int) :
    (∀ p, s.buf[rs] = some p → isEncoding tag = true → p.length + n ≤ 65535 →
      respond s (wrapRule frame rd rs tag s) = .next (s.withResult rd (frame p))) ∧
    (s.buf[rs] = none → respond s (wrapRule frame rd rs tag s) = .next (s.withError 4#8)) ∧
    (∀ p, s.buf[rs] = some p → isEncoding tag = false → respond s (wrapRule frame rd rs tag s) = .next (s.withError 2#8)) ∧
    (∀ p, s.buf[rs] = some p → isEncoding tag = true → 65535 < p.length + n →
      respond s (wrapRule frame rd rs tag s) = .next (s.withError 6#8)) := by
  refine ⟨fun p hp htag hfits => ?_, fun hp => respond_readBuf_of_none hp _, fun p hp htag => ?_, fun p hp htag hlong => ?_⟩
  · rw [wrapRule_of_accepted hp htag]
    exact respond_writeBuf_of_fits (hlen p ▸ hfits) s rd
  · rw [wrapRule, readBuf_of_some hp, ok_bind, htag, Bool.not_false, raiseIf_true, error_bind]
    exact respond_error_withError s .unknownEncoding
  · rw [wrapRule_of_accepted hp htag, writeBuf_of_long (hlen p ▸ hlong)]
    exact respond_error_withError s .capacity

/-- The one byte whose value is an integer modulo 256 is the integer cut to eight bits (R213). -/
theorem ofInt_eq_of_toNat_eq_emod {b : Byte} {x : Int} (h : (b.toNat : Int) = x % 256) : BitVec.ofInt 8 x = b := by
  apply BitVec.eq_of_toNat_eq
  rw [BitVec.toNat_ofInt]
  omega

/-- Settles O46: WENC1 wraps with the byte of the tag. -/
theorem wenc1PrefixesOneTagByte : Obligations.Wenc1PrefixesOneTagByte := by
  refine ⟨encodes_of_decode decode_wenc1, fun s rd rs tag => ?_⟩
  have hlen (p : Buffer) : (withEncoding1 tag p).length = p.length + 1 := List.length_cons
  obtain ⟨hfits, herrors⟩ := respond_wrapRule hlen s rd rs tag
  rw [exec_wenc1]
  refine ⟨fun p b hp htag hshort hb => ?_, herrors⟩
  rw [hfits p hp htag hshort, withEncoding1, ofInt_eq_of_toNat_eq_emod hb]

/-- Settles O47: WENC4 wraps with the four bytes of the word whose signed value is the tag. -/
theorem wenc4PrefixesATagWord : Obligations.Wenc4PrefixesATagWord := by
  refine ⟨encodes_of_decode decode_wenc4, fun s rd rs tag => ?_⟩
  have hlen (p : Buffer) : (withEncoding4 tag p).length = p.length + 4 := by
    rw [withEncoding4, List.length_append, length_le32, Nat.add_comm]
  obtain ⟨hfits, herrors⟩ := respond_wrapRule hlen s rd rs tag
  rw [exec_wenc4]
  refine ⟨fun p v hp htag hshort hv => ?_, herrors⟩
  rw [hfits p hp htag hshort, withEncoding4, ← hv, BitVec.ofInt_toInt, le32]

/-! ### The bundle layout (R216, R225) -/

theorem length_bundle (cmds : List Buffer) : (bundle cmds).length = 1 + cmds.length + (cmds.map List.length).sum := by
  rw [bundle, List.length_cons, length_flatMap_bundleEntry]
  omega

/-- A number up to 255 is the value of its byte. -/
theorem toNat_ofNat_of_le_255 {n : Nat} (h : n ≤ 255) : (BitVec.ofNat 8 n).toNat = n :=
  Nat.mod_eq_of_lt (Nat.lt_succ_of_le h)

/-- The entries of a bundle, each its length byte before its bytes. -/
theorem flatMap_bundleEntry_eq_zipWith (cmds : List Buffer) :
    cmds.flatMap bundleEntry =
      (List.zipWith (fun n c => n :: c) (cmds.map fun c => BitVec.ofNat 8 c.length) cmds).flatten := by
  rw [List.zipWith_map_left, List.zipWith_self]
  rfl

/-- Settles O48: up to 255, the count and each length is the value of its byte. -/
theorem bundleIsCountedAndLengthPrefixed : Obligations.BundleIsCountedAndLengthPrefixed := by
  refine ⟨length_bundle, fun cmds hcount hshort => ?_⟩
  refine ⟨_, cmds.map fun c => BitVec.ofNat 8 c.length, toNat_ofNat_of_le_255 hcount, ?_,
    congrArg _ (flatMap_bundleEntry_eq_zipWith cmds)⟩
  rw [List.map_map]
  exact List.map_congr_left fun c hc => toNat_ofNat_of_le_255 (hshort c hc)

/-- Leaving out the count and the entries before sub-command `j` leaves its entry and the later ones. -/
theorem drop_bundle {cmds : List Buffer} {j : Nat} (hj : j ≤ cmds.length) :
    (bundle cmds).drop (1 + j + ((cmds.take j).map List.length).sum) = (cmds.drop j).flatMap bundleEntry := by
  have hlen : ((cmds.take j).flatMap bundleEntry).length = j + ((cmds.take j).map List.length).sum := by
    rw [length_flatMap_bundleEntry, List.length_take_of_le hj]
  have hsplit : cmds.flatMap bundleEntry = (cmds.take j).flatMap bundleEntry ++ (cmds.drop j).flatMap bundleEntry := by
    rw [← List.flatMap_append, List.take_append_drop]
  rw [bundle, Nat.add_assoc, Nat.add_comm 1, List.drop_succ_cons, hsplit, List.drop_left' hlen]

/-- From the length byte of sub-command `j` on, a bundle is that byte, the sub-command, and the later entries. -/
theorem drop_bundle_of_getElem? {cmds : List Buffer} {j : Nat} {c : Buffer} (h : cmds[j]? = some c) :
    (bundle cmds).drop (1 + j + ((cmds.take j).map List.length).sum) =
      BitVec.ofNat 8 c.length :: (c ++ (cmds.drop (j + 1)).flatMap bundleEntry) := by
  obtain ⟨hj, rfl⟩ := List.getElem?_eq_some_iff.1 h
  rw [drop_bundle hj.le, List.drop_eq_getElem_cons hj, List.flatMap_cons, bundleEntry, List.cons_append]

/-- Settles O49: the bundle from the length byte of the sub-command on. -/
theorem bundleKeepsEachPayload : Obligations.BundleKeepsEachPayload := by
  intro cmds j c hc hshort
  have hdrop := drop_bundle_of_getElem? hc
  refine ⟨?_, _, ?_, toNat_ofNat_of_le_255 hshort⟩
  · have hoffset : 2 + j + ((cmds.take j).map List.length).sum = 1 + j + ((cmds.take j).map List.length).sum + 1 := by omega
    rw [hoffset, ← List.drop_drop, hdrop, List.drop_succ_cons, List.drop_zero, List.take_left]
  · rw [← List.head?_drop, hdrop, List.head?_cons]

/-! ### BUNDLE (R217, R222) -/

/-- A run that was read has the sequence of each of its registers. -/
theorem exists_mem_of_readRun_ok {s : State} {rs n : Nat} {cmds : List Buffer} (hrun : readRun s rs n = .ok cmds) {r : Reg}
    (hlow : rs ≤ r.val) (hhigh : r.val < rs + n) : ∃ c ∈ cmds, s.buf[r] = some c := by
  obtain ⟨-, hall⟩ := readRun_ok hrun
  obtain ⟨_, hk, hsome⟩ := hall (r.val - rs) (by omega)
  simp only [Nat.add_sub_cancel' hlow] at hsome
  exact ⟨_, List.getElem_mem hk, hsome⟩

/-- Reading a run inside the registers answers E_UNWRITTEN when one of them is invalid. -/
theorem readRun_of_none {s : State} {rs n : Nat} {r : Reg} (h16 : rs + n ≤ 16) (hlow : rs ≤ r.val) (hhigh : r.val < rs + n)
    (hr : s.buf[r] = none) : readRun s rs n = .error .unwritten := by
  cases hrun : readRun s rs n with
  | error c => rw [(readRun_range_error_free h16 hrun).1]
  | ok cmds =>
    obtain ⟨c, -, hc⟩ := exists_mem_of_readRun_ok hrun hlow hhigh
    exact absurd (hr.symm.trans hc) nofun

/-- Reading a run of valid registers answers their sequences. -/
theorem exists_readRun_ok {s : State} {rs n : Nat} (h16 : rs + n ≤ 16)
    (hvalid : ∀ q : Reg, rs ≤ q.val → q.val < rs + n → s.buf[q] ≠ none) : ∃ cmds, readRun s rs n = .ok cmds := by
  cases hrun : readRun s rs n with
  | ok cmds => exact ⟨cmds, rfl⟩
  | error c =>
    obtain ⟨-, q, hlow, hhigh, hq⟩ := readRun_range_error_free h16 hrun
    exact absurd hq (hvalid q hlow hhigh)

/-- The run that a list of sequences, one for each register, says. -/
theorem readRun_of_getElem? {s : State} {rs n : Nat} {cmds : List Buffer} (h16 : rs + n ≤ 16) (hlen : cmds.length = n)
    (h : ∀ k, k < n → s.buf[rs + k]? = some cmds[k]?) : readRun s rs n = .ok cmds := by
  refine readRun_of_valid hlen h16 fun k hk => ?_
  have hkth := h k hk
  rwa [Vector.getElem?_eq_getElem (by omega), List.getElem?_eq_getElem (by omega), Option.some.injEq] at hkth

/-- What is left of BUNDLE when its registers do not go past B15. -/
theorem exec_bundle_of_le {rs : Reg} {n : Nat} (h16 : rs.val + n ≤ 16) (rd : Reg) (s : State) :
    exec (.bundle rd rs n) s = respond s (readRun s rs.val n >>= fun cmds =>
      raiseIf (cmds.any fun c => subCommandCap < c.length) .cmdTooLong >>= fun _ => writeBuf s rd (bundle cmds)) := by
  show execBundle rd rs n s = _
  rw [execBundle, decide_eq_false (Nat.not_lt.2 h16), raiseIf_false, ok_bind]

/-- Sixteen sub-commands of up to 255 bytes fit every register. -/
theorem length_bundle_le {cmds : List Buffer} (hcount : cmds.length ≤ 16) (hshort : ∀ c ∈ cmds, c.length ≤ 255) :
    (bundle cmds).length ≤ 65535 := by
  have hsum : (cmds.map List.length).sum ≤ (cmds.map List.length).length • 255 :=
    List.sum_le_card_nsmul _ _ (List.forall_mem_map.2 hshort)
  rw [List.length_map, smul_eq_mul] at hsum
  rw [length_bundle]
  omega

/-- Settles O50: the guard on the range, then the run of registers, then the guard on the lengths. -/
theorem bundleTakesConsecutiveRegisters : Obligations.BundleTakesConsecutiveRegisters := by
  refine ⟨encodes_of_decode decode_bundle, fun s rd rs n => ⟨fun cmds h16 hlen hrun hshort => ?_, fun hpast => ?_,
    fun r h16 hlow hhigh hr => ?_, fun r c h16 hvalid hlow hhigh hr hlong => ?_⟩⟩
  · have hany : (cmds.any fun c => subCommandCap < c.length) = false :=
      List.any_eq_false.2 fun c hc hlong => Nat.not_lt.2 (hshort c hc) (of_decide_eq_true hlong)
    rw [exec_bundle_of_le h16, readRun_of_getElem? h16 hlen hrun, ok_bind, hany, raiseIf_false, ok_bind]
    exact respond_writeBuf_of_fits (length_bundle_le (by omega) hshort) s rd
  · show execBundle rd rs n s = _
    rw [execBundle, decide_eq_true hpast, raiseIf_true, error_bind]
    exact respond_error_withError s .range
  · rw [exec_bundle_of_le h16, readRun_of_none h16 hlow hhigh hr, error_bind]
    exact respond_error_withError s .unwritten
  · obtain ⟨cmds, hrun⟩ := exists_readRun_ok h16 hvalid
    obtain ⟨d, hmem, hd⟩ := exists_mem_of_readRun_ok hrun hlow hhigh
    obtain rfl : c = d := Option.some.inj (hr.symm.trans hd)
    have hany : (cmds.any fun c => subCommandCap < c.length) = true :=
      List.any_eq_true.2 ⟨c, hmem, decide_eq_true hlong⟩
    rw [exec_bundle_of_le h16, hrun, ok_bind, hany, raiseIf_true, error_bind]
    exact respond_error_withError s .cmdTooLong

/-! ### DELAY (R219, R223) -/

/-- A 16-bit number in bytes, the low one first (R10). -/
theorem le16_eq_of_toNat_eq {v : BitVec 16} {lo hi : Byte} (hlo : lo.toNat = v.toNat % 256) (hhi : hi.toNat = v.toNat / 256) :
    le16 v = [lo, hi] := by
  have hlow : v.extractLsb' 0 8 = lo := BitVec.eq_of_toNat_eq (by rw [BitVec.extractLsb'_toNat, hlo]; rfl)
  have hhigh : v.extractLsb' 8 8 = hi := by
    apply BitVec.eq_of_toNat_eq
    rw [BitVec.extractLsb'_toNat, hhi, Nat.shiftRight_eq_div_pow]
    omega
  rw [le16, hlow, hhigh]

/-- Settles O51: three bytes fit every register. -/
theorem delayLeavesTheRecord : Obligations.DelayLeavesTheRecord := by
  refine ⟨encodes_of_decode decode_delay, fun s rd ms lo hi hlo hhi => ?_⟩
  have hrecord : delayCommand ms = [0xEF#8, lo, hi] := congrArg (0xEF#8 :: ·) (le16_eq_of_toNat_eq hlo hhi)
  show execDelay rd ms s = _
  rw [execDelay, hrecord]
  exact respond_writeBuf_of_fits (by simp) s rd

/-! ### EMIT (R224) -/

/-- Settles O52: a valid source leaves no other check. -/
theorem emitAddsOneSinkEntry : Obligations.EmitAddsOneSinkEntry := by
  refine ⟨encodes_of_decode decode_emit, fun s rs topic => ⟨fun b hb => ?_, fun hb => respond_readBuf_of_none hb _⟩⟩
  show execEmit rs topic s = _
  rw [execEmit, readBuf_of_some hb, ok_bind, respond_ok, takeOk_eq]
  rfl

end Sys2Proof.Machine
end

section
/-! PROOFS. The statements about the pulse-timing expansion (46_pulse_expansion): the place of each word (R241, R244), the sizes and the
total duration (R245, R247), the raw tag in front (R243), and PANINT (R248). -/

namespace Sys2Proof.Machine

/-! ### The words (R241, R244) -/

/-- The four leading words and the words of `p`. -/
theorem length_panWords_before (freq : Word) (p : Buffer) :
    ([rawTag, freq, hdrMark, hdrSpace] ++ p.flatMap byteWords).length = 4 + 16 * p.length :=
  List.length_append.trans (congrArg (4 + ·) (length_flatMap_byteWords p))

theorem length_panWords (freq : Word) (p : Buffer) : (panWords freq p).length = 16 * p.length + 5 := by
  rw [panWords, List.length_append, length_panWords_before, List.length_singleton]
  omega

/-- The sixteen words of byte `i` stand behind the four leading words and the words of the bytes before it. -/
theorem getElem?_panWords_of_byte {p : Buffer} {i k : Nat} {b : Byte} (hb : p[i]? = some b) (hk : k < 16) (freq : Word) :
    (panWords freq p)[4 + 16 * i + k]? = (byteWords b)[k]? := by
  obtain ⟨hi, rfl⟩ := List.getElem?_eq_some_iff.1 hb
  have hbytes : p.flatMap byteWords = (p.take i).flatMap byteWords ++ (byteWords p[i] ++ (p.drop (i + 1)).flatMap byteWords) := by
    rw [← List.flatMap_cons, ← List.drop_eq_getElem_cons hi, ← List.flatMap_append, List.take_append_drop]
  have hbefore := length_panWords_before freq (p.take i)
  rw [List.length_take_of_le hi.le] at hbefore
  rw [panWords, hbytes, ← List.append_assoc, List.append_assoc, List.getElem?_append_right (by omega), hbefore,
    Nat.add_sub_cancel_left, List.append_assoc, List.getElem?_append_left hk]

/-- The expansion ends with one more mark. -/
theorem getElem?_panWords_last (freq : Word) (p : Buffer) : (panWords freq p)[16 * p.length + 4]? = some bitMark := by
  rw [panWords, Nat.add_comm, ← length_panWords_before freq p, List.getElem?_concat_length]

/-- Settles O53: the words of a byte are found behind those before it, and in them each bit is its mark and its space. -/
theorem pulseWordsInClosedForm : Obligations.PulseWordsInClosedForm := by
  refine fun freq p => ⟨rfl, rfl, rfl, rfl, fun i j b hb hj => ?_, getElem?_panWords_last freq p, length_panWords freq p⟩
  obtain ⟨hmark, hspace⟩ := byteWords_get b j hj
  rw [Nat.add_assoc (4 + 16 * i), getElem?_panWords_of_byte hb (by omega), getElem?_panWords_of_byte hb (by omega)]
  exact ⟨hmark, hspace⟩

/-! ### Sizes and the total duration (R245, R247) -/

theorem length_panIntervals (freq : Word) (p : Buffer) : (panIntervals freq p).length = 64 * p.length + 20 := by
  rw [panIntervals, length_toBuffer, length_panWords]
  omega

/-- How many bits of a byte are ones. -/
def onesIn (b : Byte) : Nat := ((List.range 8).filter fun j => b.getLsbD j).length

theorem onesIn_le (b : Byte) : onesIn b ≤ 8 := List.length_filter_le ..

theorem sum_onesIn_le (p : Buffer) : (p.map onesIn).sum ≤ 8 * p.length := by
  have hsum := List.sum_le_card_nsmul (p.map onesIn) 8 (List.forall_mem_map.2 fun b _ => onesIn_le b)
  rwa [List.length_map, smul_eq_mul, Nat.mul_comm] at hsum

/-- A bit lasts 502 for its mark and 1244 or 400 for its space. -/
theorem sum_bitWords (bit : Bool) : ([bitMark, bitSpace bit].map BitVec.toNat).sum = 502 + if bit then 1244 else 400 := by
  cases bit <;> rfl

/-- The bits of a byte at any positions `js`: each lasts 902, and each of the ones among them 844 more. -/
theorem sum_bitWords_at (b : Byte) (js : List Nat) :
    ((js.flatMap fun j => [bitMark, bitSpace (b.getLsbD j)]).map BitVec.toNat).sum =
      902 * js.length + 844 * (js.filter fun j => b.getLsbD j).length := by
  induction js with
  | nil => rfl
  | cons j js ih =>
    rw [List.flatMap_cons, List.map_append, List.sum_append, ih, sum_bitWords, List.length_cons]
    cases hbit : b.getLsbD j <;> simp [hbit] <;> omega

theorem sum_byteWords (b : Byte) : ((byteWords b).map BitVec.toNat).sum = 902 * 8 + 844 * onesIn b :=
  sum_bitWords_at b (List.range 8)

theorem sum_flatMap_byteWords (p : Buffer) :
    ((p.flatMap byteWords).map BitVec.toNat).sum = 902 * (8 * p.length) + 844 * (p.map onesIn).sum := by
  induction p with
  | nil => rfl
  | cons b p ih =>
    rw [List.flatMap_cons, List.map_append, List.sum_append, ih, sum_byteWords, List.map_cons, List.sum_cons, List.length_cons]
    omega

/-- The durations are the words from the third on: the two of the header, those of the bits and the last mark. -/
theorem sum_durations (freq : Word) (p : Buffer) :
    (((panWords freq p).drop 2).map BitVec.toNat).sum = 3502 + 1700 + ((p.flatMap byteWords).map BitVec.toNat).sum + 502 := by
  have hdrop : (panWords freq p).drop 2 = [hdrMark, hdrSpace] ++ p.flatMap byteWords ++ [bitMark] := rfl
  rw [hdrop, List.map_append, List.map_append, List.sum_append, List.sum_append]
  rfl

/-- Settles O54: there are at most eight ones a byte, and the other bits are the zeros. -/
theorem pulseSizesAndTotalDuration : Obligations.PulseSizesAndTotalDuration := by
  intro freq p ones hones
  have hcount : ones = (p.map onesIn).sum := hones
  have hle := sum_onesIn_le p
  refine ⟨length_panIntervals freq p, ?_⟩
  rw [sum_durations, sum_flatMap_byteWords, hcount]
  omega

/-! ### The tag (R243) -/

/-- Settles O55: the first word is the value of the tag raw. -/
theorem pulsePayloadIsTaggedRaw : Obligations.PulsePayloadIsTaggedRaw := by
  intro freq p
  have htag : BitVec.ofInt 32 (encodingValue .raw) = rawTag := rfl
  have hwords : panWords freq p = rawTag :: (panWords freq p).drop 1 := rfl
  rw [withEncoding4, htag, ← toBuffer_cons, ← hwords, panIntervals]

/-! ### PANINT (R248) -/

/-- With a valid source, only the length is left to check. -/
theorem exec_panint_of_some {s : State} {rs : Reg} {p : Buffer} (hp : s.buf[rs] = some p) (rd : Reg) :
    exec (.panint rd rs) s = respond s (writeBuf s rd (panIntervals Config.cfg.panFreq p)) := by
  show execPanint rd rs s = _
  rw [execPanint, readBuf_of_some hp, ok_bind]

/-- Settles O56: 64 bytes for each of the source and 20 more fit a register up to 1023. -/
theorem panintLeavesTheExpansion : Obligations.PanintLeavesTheExpansion := by
  refine ⟨encodes_of_decode decode_panint, fun s rd rs => ⟨fun p hp hshort => ?_, fun hp => respond_readBuf_of_none hp _,
    fun p hp hlong => ?_⟩⟩
  · rw [exec_panint_of_some hp]
    exact respond_writeBuf_of_fits (by rw [length_panIntervals]; omega) s rd
  · rw [exec_panint_of_some hp, writeBuf_of_long (by rw [length_panIntervals]; omega)]
    exact respond_error_withError s .capacity

end Sys2Proof.Machine
end

section
/-! PROOFS. The statements about the end of a command (60_exceptions): every command and every step answers a next state, with one of
the status codes (R260, R301), and a failing command word is its error entry (R262). -/

namespace Sys2Proof.Machine

/-! ### Every command completes (R260, R301) -/

/-- Ending a command is an answer, whatever its rule computes. -/
theorem respond_completes (s : State) (x : Except Cause State) : ∃ t, respond s x = .next t := by
  cases x with
  | ok u => exact ⟨takeOk u, respond_ok s u⟩
  | error c => exact ⟨takeError c s, respond_error s c⟩

theorem exec_completes (i : Instr) (s : State) : ∃ t, exec i s = .next t := by
  obtain ⟨x, hx, -⟩ := exec_isCommand i s
  rw [hx]
  exact respond_completes s x

theorem execWord_completes (w : Word) (s : State) : ∃ t, execWord w s = .next t := by
  cases hw : decode w with
  | ok i =>
    rw [execWord_command hw]
    exact exec_completes i s
  | error e => exact ⟨_, execWord_refused hw s⟩

theorem step_completes (s : State) : ∃ t, step s = .next t := by
  obtain ⟨-, hwait⟩ | ⟨rest, -, hreset⟩ | ⟨w, rest, -, hword⟩ := step_cases s
  · exact ⟨_, hwait⟩
  · exact ⟨_, hreset⟩
  · rw [hword]
    exact execWord_completes w _

/-- Settles O4: a command ends with status OK or with the code of a cause, and a step waits, resets or executes one command word. -/
theorem everyCommandCompletesWithAStatus : Obligations.EveryCommandCompletesWithAStatus := by
  refine ⟨fun i s => ?_, step_completes⟩
  obtain ⟨t, ht⟩ := exec_completes i s
  exact ⟨t, ht, exec_err_le ht⟩

/-! ### A failing command word (R262) -/

/-- All that a command word, legal or not, can answer: status OK with FLT as it was, or the error entry of one cause. -/
theorem execWord_cases {w : Word} {s t : State} (h : execWord w s = .next t) :
    (t.err = 0#8 ∧ t.flt = s.flt) ∨ ∃ c, t = takeError c s := by
  cases hw : decode w with
  | ok i =>
    rw [execWord_command hw] at h
    obtain ⟨u, hu, rfl⟩ | herror := exec_cases h
    · exact .inl ⟨rfl, (takeOk_flt u).trans hu.flt⟩
    · exact .inr herror
  | error e =>
    rw [execWord_refused hw] at h
    cases h
    exact .inr ⟨.illegal, (takeError_eq_withError .illegal s).symm⟩

/-- Settles O5: the error entry writes ERR, which no cause leaves 0, and FLT. -/
theorem failingCommandWritesOnlyItsStatus : Obligations.FailingCommandWritesOnlyItsStatus := by
  intro s t w rest hs h
  rw [step_command hs] at h
  obtain ⟨herr, hflt⟩ | ⟨c, rfl⟩ := execWord_cases h
  · exact ⟨fun hne => absurd herr hne, fun _ => hflt⟩
  · exact ⟨fun _ => takeError_eq c _, fun h0 => absurd h0 (causeCode_ne_zero c)⟩

end Sys2Proof.Machine
end

section
/-! PROOFS. The statements about reset and hazards (70_reset): nothing but a reset clears FLT, invalidates a register or takes from
SINK (R291), and a run takes one step for each word of the program (R302). -/

namespace Sys2Proof.Machine

/-- All that a command word does: the command it decodes to answers, or it ends with E_ILLEGAL (R70, R74). -/
theorem execWord_exec_or_illegal {w : Word} {s t : State} (h : execWord w s = .next t) :
    (∃ i, exec i s = .next t) ∨ t = takeError .illegal s := by
  cases hw : decode w with
  | ok i => exact .inl ⟨i, execWord_command hw s ▸ h⟩
  | error e =>
    rw [execWord_refused hw] at h
    cases h
    exact .inr (takeError_eq_withError .illegal s).symm

/-! ### Only reset clears (R291) -/

/-- What only a reset takes away from `s` still stands in `t`: a set FLT, the valid registers, the entries of SINK (R291). -/
structure Retains (s t : State) : Prop where
  flt   : s.flt = true → t.flt = true
  valid : ∀ r : Reg, s.buf[r] ≠ none → t.buf[r] ≠ none
  sink  : s.sink <+: t.sink

theorem Retains.refl (s : State) : Retains s s := ⟨id, fun _ => id, List.prefix_rfl⟩

/-- The error entry sets FLT and touches no register and no entry of SINK (R262). -/
theorem takeError_retains (c : Cause) (s : State) : Retains s (takeError c s) :=
  ⟨fun _ => takeError_flt c s, fun _ => id, List.prefix_rfl⟩

/-- A command only ever sets FLT, leaves its destinations valid and adds at the end of SINK. -/
theorem exec_retains {i : Instr} {s t : State} (h : exec i s = .next t) : Retains s t where
  flt hs := by rw [exec_flt h, hs, Bool.true_or]
  valid r hr := by
    obtain hkept | ⟨b, hb, -⟩ := exec_buf_cases h r
    · rwa [hkept]
    · rw [hb]
      exact Option.some_ne_none b
  sink := by
    obtain hkept | ⟨r, topic, b, -, hadded⟩ := exec_sink_cases h
    · rw [hkept]
    · rw [hadded]
      exact List.prefix_append _ _

theorem execWord_retains {w : Word} {s t : State} (h : execWord w s = .next t) : Retains s t := by
  obtain ⟨i, hi⟩ | rfl := execWord_exec_or_illegal h
  · exact exec_retains hi
  · exact takeError_retains .illegal s

/-- Every step but a reset retains; taking the event off the host's list changes no other field. -/
theorem step_retains {s t : State} (hs : ∀ rest, s.host ≠ .reset :: rest) (h : step s = .next t) : Retains s t := by
  obtain ⟨-, hwait⟩ | ⟨rest, hreset, -⟩ | ⟨w, rest, -, hword⟩ := step_cases s
  · obtain rfl : s = t := Host.Outcome.next.inj (hwait.symm.trans h)
    exact .refl s
  · exact absurd hreset (hs rest)
  · obtain ⟨hflt, hvalid, hsink⟩ := execWord_retains (hword.symm.trans h)
    exact ⟨hflt, hvalid, hsink⟩

/-- Settles O6: a step that is no reset waits or executes one command word, and each retains. -/
theorem onlyResetClearsFaultRegistersOrSink : Obligations.OnlyResetClearsFaultRegistersOrSink := by
  intro s t hs h
  obtain ⟨hflt, hvalid, hsink⟩ := step_retains hs h
  exact ⟨hflt, hvalid, hsink⟩

/-! ### A run (R301, R302) -/

theorem execWord_host {w : Word} {s t : State} (h : execWord w s = .next t) : t.host = s.host := by
  obtain ⟨i, hi⟩ | rfl := execWord_exec_or_illegal h
  · exact exec_host hi
  · exact takeError_host .illegal s

/-- The step of a command word completes and takes that word off the host's list, and nothing else. -/
theorem step_takes_word {s : State} {w : Word} {rest : List HostEvent} (hs : s.host = .command w :: rest) :
    ∃ t, step s = .next t ∧ t.host = rest := by
  obtain ⟨t, ht⟩ := execWord_completes w { s with host := rest }
  exact ⟨t, (step_command hs).trans ht, execWord_host ht⟩

/-- From any state, as many steps as the host presents words take exactly those words. -/
theorem run_takes_words (words : List Word) {s : State} {rest : List HostEvent} (hs : s.host = words.map .command ++ rest) :
    ∃ t, Host.Core.run Sys2Proof.core words.length s = .next t ∧ t.host = rest := by
  induction words generalizing s with
  | nil => exact ⟨s, run_zero s, hs⟩
  | cons w words ih =>
    obtain ⟨u, hstep, hu⟩ := step_takes_word hs
    obtain ⟨t, hrun, ht⟩ := ih hu
    exact ⟨t, (run_succ hstep).trans hrun, ht⟩

/-- Settles O10: the run from reset on a program, with nothing for the host to do behind it. -/
theorem runTakesOneStepPerWord : Obligations.RunTakesOneStepPerWord := fun words =>
  run_takes_words words (List.append_nil _).symm

end Sys2Proof.Machine
end
